-- ==== Sys2Proof/Word.lean ====
section
/-! DEFINITION. The words that move through the ports of `bg32_core`: characters, texts, command
words and text beats (20_memory.md R57; 30_encoding.md R70, R73). -/

namespace Sys2Proof

/-- One 8-bit character code; bit 7 is the most significant (20_memory.md R57). -/
abbrev Byte := BitVec 8

/-- A text: a finite, possibly empty sequence of 8-bit characters, position 0 first
(00_scope.md section 7). -/
abbrev Text := List Byte

/-- One command beat seen as a word, `{op[2:0], null, data[127:0]}` (30_encoding.md R70). -/
abbrev CmdWord := BitVec 132

/-- One text beat seen as a word, `{eot, char[7:0]}` (30_encoding.md R73). -/
abbrev BeatWord := BitVec 9

/-- One word offered to the block on one of its two input channels (10_state.md R22, R23). -/
inductive ChannelWord where
  | cmd  (w : CmdWord)
  | beat (w : BeatWord)
deriving DecidableEq, Repr

end Sys2Proof
end

