-- ==== Sys2Proof/Machine/Tables.lean ====
section
/-! DEFINITION. The three read-only tables `ALPHA`, `REV` and `HEX` (20_memory.md R50 to R54), the
character classes of 30_encoding.md R77, and the renderings made of table reads (R56, R179). The
tables are constants: nothing in the model writes them (R53). -/

namespace Sys2Proof.Machine

/-- `'-'` (30_encoding.md R76; ASCII, PRESUMED, safe: assumption log 4). -/
abbrev hyphenChar : Byte := 0x2D#8
/-- `' '`, the only space (30_encoding.md R76, R77). -/
abbrev spaceChar : Byte := 0x20#8

/-- The table `ALPHA`: the characters of `0123456789ABCDEFGHJKMNPQRSTVWXYZ`, position 0 first
(20_memory.md R50, codes of 30_encoding.md R76). -/
def alphaTable : Vector Byte 32 := #v[
  0x30#8, 0x31#8, 0x32#8, 0x33#8, 0x34#8, 0x35#8, 0x36#8, 0x37#8,
  0x38#8, 0x39#8, 0x41#8, 0x42#8, 0x43#8, 0x44#8, 0x45#8, 0x46#8,
  0x47#8, 0x48#8, 0x4A#8, 0x4B#8, 0x4D#8, 0x4E#8, 0x50#8, 0x51#8,
  0x52#8, 0x53#8, 0x54#8, 0x56#8, 0x57#8, 0x58#8, 0x59#8, 0x5A#8]

/-- `sym(i) = MemRead(ALPHA:i, 1)`: every 5-bit index is legal (20_memory.md R50, R58). -/
def alpha (i : BitVec 5) : Byte := alphaTable[i.toNat]'i.isLt

/-- `idx(c) = MemRead(REV:c, 1)`: the table `REV` is the inverse of `ALPHA` and is fully determined
by it (20_memory.md R51). `none` is an entry `{0, unspecified}`, whose index half no rule reads
(DESIGN CHOICE, safe: assumption log 9). -/
def rev (c : Byte) : Option (BitVec 5) :=
  (alphaTable.toList.findIdx? (· == c)).map (BitVec.ofNat 5)

/-- The table `HEX`: the characters of `0123456789ABCDEF` (20_memory.md R52). -/
def hexTable : Vector Byte 16 := #v[
  0x30#8, 0x31#8, 0x32#8, 0x33#8, 0x34#8, 0x35#8, 0x36#8, 0x37#8,
  0x38#8, 0x39#8, 0x41#8, 0x42#8, 0x43#8, 0x44#8, 0x45#8, 0x46#8]

/-- `hexdig(n) = MemRead(HEX:n, 1)` (20_memory.md R52). -/
def hexdig (n : BitVec 4) : Byte := hexTable[n.toNat]'n.isLt

/-- The four classes of 8-bit codes (30_encoding.md R77). -/
inductive CharClass where
  | sym | hyphen | space | other
deriving DecidableEq, Repr

/-- Every code belongs to exactly one class (30_encoding.md R77). -/
def charClass (c : Byte) : CharClass :=
  if c = hyphenChar then .hyphen
  else if c = spaceChar then .space
  else if (rev c).isSome then .sym
  else .other

/-- `hex8(v)`: the character at position `k` is `hexdig(v[31-4k : 28-4k])` (20_memory.md R56). -/
def hex8 (v : BitVec 32) : Text :=
  [0, 1, 2, 3, 4, 5, 6, 7].map fun k => hexdig (v.extractLsb' (28 - 4 * k) 4)

/-- `group(U, g) = U[127-32g : 96-32g]` for `g` = 0 to 3 (42_group_formatter.md R161). -/
def group (u : BitVec 128) (g : Nat) : BitVec 32 := u.extractLsb' (96 - 32 * g) 32

/-- `{a, b, c, d}`, the UUID value whose four groups are given (42_group_formatter.md R161). -/
def joinGroups (a b c d : BitVec 32) : BitVec 128 := a ++ b ++ c ++ d

/-- `U` with slice `g` written and the other slices kept (42_group_formatter.md R176). -/
def putGroup (u : BitVec 128) (g : Nat) (v : BitVec 32) : BitVec 128 :=
  joinGroups (if g = 0 then v else group u 0) (if g = 1 then v else group u 1)
    (if g = 2 then v else group u 2) (if g = 3 then v else group u 3)

/-- `uuidtext(U)`: `n_0 - n_1[0:4] - n_1[4:8] - n_2[0:4] - n_2[4:8] n_3` with `n_g` the hex8 text of
group `g` (42_group_formatter.md R179). -/
def uuidText (u : BitVec 128) : Text :=
  hex8 (group u 0) ++ [hyphenChar]
    ++ (hex8 (group u 1)).take 4 ++ [hyphenChar] ++ (hex8 (group u 1)).drop 4 ++ [hyphenChar]
    ++ (hex8 (group u 2)).take 4 ++ [hyphenChar] ++ (hex8 (group u 2)).drop 4
    ++ hex8 (group u 3)

end Sys2Proof.Machine
end

