-- ==== Sys2Proof/Machine/Operands.lean ====
section
/-! DEFINITION. Operand forms: the operation codes and fields of the command word, the fields of a
text beat, and how text operands are laid out in beats (30_encoding.md R70 to R75). -/

namespace Sys2Proof.Machine

/-- `op` of `ENC32` (30_encoding.md R71). -/
abbrev opEnc32 : BitVec 3 := 1#3
/-- `op` of `DEC32` (R71). -/
abbrev opDec32 : BitVec 3 := 2#3
/-- `op` of `TOBG` (R71). -/
abbrev opTobg : BitVec 3 := 3#3
/-- `op` of `FROMBG` (R71). -/
abbrev opFrombg : BitVec 3 := 4#3

/-- `cmd_op = cmd[131:129]` (30_encoding.md R70). -/
def cmdOp (w : CmdWord) : BitVec 3 := w.extractLsb' 129 3
/-- `cmd_null = cmd[128]` (R70). -/
def cmdNull (w : CmdWord) : BitVec 1 := w.extractLsb' 128 1
/-- `cmd_data = cmd[127:0]` (R70). -/
def cmdData (w : CmdWord) : BitVec 128 := w.extractLsb' 0 128
/-- The command word `{op, null, data}` (R70). -/
def cmdWord (op : BitVec 3) (null : BitVec 1) (data : BitVec 128) : CmdWord := op ++ null ++ data

/-- `eot = beat[8]` (30_encoding.md R73). -/
def beatEot (w : BeatWord) : BitVec 1 := w.extractLsb' 8 1
/-- `char = beat[7:0]` (R73). -/
def beatChar (w : BeatWord) : Byte := w.extractLsb' 0 8
/-- The text beat `{eot, char}` (R73). -/
def beatWord (eot : BitVec 1) (c : Byte) : BeatWord := eot ++ c

/-- Whether the command owns a text on the text input channel: `DEC32` and `FROMBG` with `null = 0`
own the beats up to and including the next EOT, every other command owns none
(70_reset_and_hazards.md R258). -/
def takesText (w : CmdWord) : Bool :=
  cmdNull w = 0#1 && (cmdOp w = opDec32 || cmdOp w = opFrombg)

/-- The beats of a text: one per character and then one EOT beat, whose character `e` the block
ignores (30_encoding.md R73). -/
def textBeats (e : Byte) (t : Text) : List BeatWord :=
  t.map (beatWord 0#1) ++ [beatWord 1#1 e]

/-- Five bits enter at the bottom of the accumulator: `{a[58:0], i[4:0]}`; the five bits `a[63:59]`
are dropped (41_base32_decoder.md R131; 00_scope.md R6). -/
def pushDigit (a : BitVec 64) (i : BitVec 5) : BitVec 64 := a.extractLsb' 0 59 ++ i

/-- `a[63:32] != 0`, said "wide" (00_scope.md R6 and glossary). -/
def isWide (a : BitVec 64) : Bool := a.extractLsb' 32 32 != 0#32

end Sys2Proof.Machine
end

