-- ==== Sys2Proof/Syntax.lean ====
section
/-! DEFINITION. The instructions: one constructor per row of spec/opcode_table.json. The first
twelve are the command rows (30_encoding.md R70, R71, R78), the other thirty-six the text-beat rows
(R73, R77). Bits that an instruction ignores are kept as fields, so that no bit of a word is lost. -/

namespace Sys2Proof

inductive Instr where
  /-- `RESERVED_OP0`: op = 0 with either null bit (R78). -/
  | reservedOp0 (null : BitVec 1) (data : BitVec 128)
  /-- `ENC32`: op = 1, null = 0; `v = cmd_data[31:0]`, `cmd_data[127:32]` ignored (R75, R100). -/
  | enc32 (ignored : BitVec 96) (v : BitVec 32)
  /-- `ILLEGAL_ENC32_NULL`: op = 1, null = 1 (R78). -/
  | illegalEnc32Null (data : BitVec 128)
  /-- `DEC32`: op = 2, null = 0; the operand is the text, `cmd_data` is ignored (R75, R130). -/
  | dec32 (data : BitVec 128)
  /-- `DEC32_NULL`: op = 2, null = 1, the absent text (R72, R139). -/
  | dec32Null (data : BitVec 128)
  /-- `TOBG`: op = 3, null = 0; `U = cmd_data` (R75, R165). -/
  | tobg (u : BitVec 128)
  /-- `ILLEGAL_TOBG_NULL`: op = 3, null = 1 (R78). -/
  | illegalTobgNull (data : BitVec 128)
  /-- `FROMBG`: op = 4, null = 0; the operand is the text, `cmd_data` is ignored (R75, R172). -/
  | frombg (data : BitVec 128)
  /-- `FROMBG_NULL`: op = 4, null = 1, the absent text (R72, R187). -/
  | frombgNull (data : BitVec 128)
  /-- `RESERVED_OP5` (R78). -/
  | reservedOp5 (null : BitVec 1) (data : BitVec 128)
  /-- `RESERVED_OP6` (R78). -/
  | reservedOp6 (null : BitVec 1) (data : BitVec 128)
  /-- `RESERVED_OP7` (R78). -/
  | reservedOp7 (null : BitVec 1) (data : BitVec 128)
  /-- `EOT`: the end of a text; the character is ignored (R73). -/
  | eot (char : Byte)
  /-- `SYM_0`: the symbol `0` (0x30), digit value 0 (20_memory.md R50, R51). -/
  | sym0
  /-- `SYM_1`: the symbol `1` (0x31), digit value 1 (20_memory.md R50, R51). -/
  | sym1
  /-- `SYM_2`: the symbol `2` (0x32), digit value 2 (20_memory.md R50, R51). -/
  | sym2
  /-- `SYM_3`: the symbol `3` (0x33), digit value 3 (20_memory.md R50, R51). -/
  | sym3
  /-- `SYM_4`: the symbol `4` (0x34), digit value 4 (20_memory.md R50, R51). -/
  | sym4
  /-- `SYM_5`: the symbol `5` (0x35), digit value 5 (20_memory.md R50, R51). -/
  | sym5
  /-- `SYM_6`: the symbol `6` (0x36), digit value 6 (20_memory.md R50, R51). -/
  | sym6
  /-- `SYM_7`: the symbol `7` (0x37), digit value 7 (20_memory.md R50, R51). -/
  | sym7
  /-- `SYM_8`: the symbol `8` (0x38), digit value 8 (20_memory.md R50, R51). -/
  | sym8
  /-- `SYM_9`: the symbol `9` (0x39), digit value 9 (20_memory.md R50, R51). -/
  | sym9
  /-- `SYM_A`: the symbol `A` (0x41), digit value 10 (20_memory.md R50, R51). -/
  | symA
  /-- `SYM_B`: the symbol `B` (0x42), digit value 11 (20_memory.md R50, R51). -/
  | symB
  /-- `SYM_C`: the symbol `C` (0x43), digit value 12 (20_memory.md R50, R51). -/
  | symC
  /-- `SYM_D`: the symbol `D` (0x44), digit value 13 (20_memory.md R50, R51). -/
  | symD
  /-- `SYM_E`: the symbol `E` (0x45), digit value 14 (20_memory.md R50, R51). -/
  | symE
  /-- `SYM_F`: the symbol `F` (0x46), digit value 15 (20_memory.md R50, R51). -/
  | symF
  /-- `SYM_G`: the symbol `G` (0x47), digit value 16 (20_memory.md R50, R51). -/
  | symG
  /-- `SYM_H`: the symbol `H` (0x48), digit value 17 (20_memory.md R50, R51). -/
  | symH
  /-- `SYM_J`: the symbol `J` (0x4A), digit value 18 (20_memory.md R50, R51). -/
  | symJ
  /-- `SYM_K`: the symbol `K` (0x4B), digit value 19 (20_memory.md R50, R51). -/
  | symK
  /-- `SYM_M`: the symbol `M` (0x4D), digit value 20 (20_memory.md R50, R51). -/
  | symM
  /-- `SYM_N`: the symbol `N` (0x4E), digit value 21 (20_memory.md R50, R51). -/
  | symN
  /-- `SYM_P`: the symbol `P` (0x50), digit value 22 (20_memory.md R50, R51). -/
  | symP
  /-- `SYM_Q`: the symbol `Q` (0x51), digit value 23 (20_memory.md R50, R51). -/
  | symQ
  /-- `SYM_R`: the symbol `R` (0x52), digit value 24 (20_memory.md R50, R51). -/
  | symR
  /-- `SYM_S`: the symbol `S` (0x53), digit value 25 (20_memory.md R50, R51). -/
  | symS
  /-- `SYM_T`: the symbol `T` (0x54), digit value 26 (20_memory.md R50, R51). -/
  | symT
  /-- `SYM_V`: the symbol `V` (0x56), digit value 27 (20_memory.md R50, R51). -/
  | symV
  /-- `SYM_W`: the symbol `W` (0x57), digit value 28 (20_memory.md R50, R51). -/
  | symW
  /-- `SYM_X`: the symbol `X` (0x58), digit value 29 (20_memory.md R50, R51). -/
  | symX
  /-- `SYM_Y`: the symbol `Y` (0x59), digit value 30 (20_memory.md R50, R51). -/
  | symY
  /-- `SYM_Z`: the symbol `Z` (0x5A), digit value 31 (20_memory.md R50, R51). -/
  | symZ
  /-- `HYPHEN`: the character 0x2D (42_group_formatter.md R174; 41_base32_decoder.md R134). -/
  | hyphen
  /-- `SPACE`: the character 0x20 (42_group_formatter.md R173; 41_base32_decoder.md R134). -/
  | space
  /-- `OTHER`: every other character, 222 codes (30_encoding.md R77). -/
  | other (char : Byte)
deriving DecidableEq, Repr

end Sys2Proof
end

