-- ==== Sys2Proof/Decode.lean ====
section
/-! DEFINITION. The decoder and the encoder of command words and text beats (30_encoding.md R70 to
R78, spec/opcode_table.json). Every 132-bit command word and every 9-bit beat decodes: the reserved
words are rows of the table with a meaning of their own (R78). Only a bit string that is neither a
command nor a beat is rejected, by name. -/

namespace Sys2Proof

open Sys2Proof.Machine

/-- Why a bit string is no instruction. -/
inductive DecodeError where
  /-- Its length is that of neither a command word nor a text beat (R70, R73). -/
  | noSuchFormat (nbits : Nat)
deriving DecidableEq, Repr

/-- The command rows of the opcode table, on `{op, null}` (30_encoding.md R71, R78). -/
def decodeCmd (w : CmdWord) : Instr :=
  let op := cmdOp w
  let null := cmdNull w
  let data := cmdData w
  if op = 0#3 then .reservedOp0 null data
  else if op = opEnc32 then
    if null = 0#1 then .enc32 (data.extractLsb' 32 96) (data.extractLsb' 0 32)
    else .illegalEnc32Null data
  else if op = opDec32 then
    if null = 0#1 then .dec32 data else .dec32Null data
  else if op = opTobg then
    if null = 0#1 then .tobg data else .illegalTobgNull data
  else if op = opFrombg then
    if null = 0#1 then .frombg data else .frombgNull data
  else if op = 5#3 then .reservedOp5 null data
  else if op = 6#3 then .reservedOp6 null data
  else .reservedOp7 null data

/-- The `SYM_*` rows of the opcode table: character code and row (20_memory.md R50, R51). -/
def symbolRows : List (Byte × Instr) :=
  [(0x30#8, .sym0), (0x31#8, .sym1), (0x32#8, .sym2), (0x33#8, .sym3),
   (0x34#8, .sym4), (0x35#8, .sym5), (0x36#8, .sym6), (0x37#8, .sym7)] ++
  [(0x38#8, .sym8), (0x39#8, .sym9), (0x41#8, .symA), (0x42#8, .symB),
   (0x43#8, .symC), (0x44#8, .symD), (0x45#8, .symE), (0x46#8, .symF)] ++
  [(0x47#8, .symG), (0x48#8, .symH), (0x4A#8, .symJ), (0x4B#8, .symK),
   (0x4D#8, .symM), (0x4E#8, .symN), (0x50#8, .symP), (0x51#8, .symQ)] ++
  [(0x52#8, .symR), (0x53#8, .symS), (0x54#8, .symT), (0x56#8, .symV),
   (0x57#8, .symW), (0x58#8, .symX), (0x59#8, .symY), (0x5A#8, .symZ)]

/-- The character rows: hyphen, space, the symbols, and `OTHER` as the row of lowest priority
(30_encoding.md R77). -/
def decodeChar (c : Byte) : Instr :=
  if c = hyphenChar then .hyphen
  else if c = spaceChar then .space
  else match symbolRows.find? (fun r => r.1 == c) with
    | some r => r.2
    | none => .other c

/-- A text beat: the end of text when `eot = 1`, else its character (30_encoding.md R73). -/
def decodeBeat (w : BeatWord) : Instr :=
  if beatEot w = 1#1 then .eot (beatChar w) else decodeChar (beatChar w)

/-- The instruction that a word on either input channel is. -/
def decode : ChannelWord → Instr
  | .cmd w => decodeCmd w
  | .beat w => decodeBeat w

/-- The word that the bits of one table row stand for. A row of at most 8 bits is a command row: its
4 bits are the header `cmd[131:128]` (30_encoding.md R70), and the data bits count on from them. A
row of 9 to 16 bits is a text beat. Longer bit strings are whole commands, the header first. -/
def tableWord (nbits w : Nat) : Except DecodeError ChannelWord :=
  if nbits = 0 then .error (.noSuchFormat nbits)
  else if nbits ≤ 8 then
    .ok (.cmd (BitVec.ofNat 4 w ++ BitVec.ofNat 128 (w >>> 4)))
  else if nbits ≤ 16 then .ok (.beat (BitVec.ofNat 9 w))
  else if nbits ≤ 136 then
    .ok (.cmd (BitVec.ofNat 4 w ++ BitVec.ofNat 128 (w >>> 4)))
  else .error (.noSuchFormat nbits)

/-- The instruction the decoder reads from a word numbered as spec/opcode_table.json numbers it. -/
def decodeTableWord (nbits w : Nat) : Option Instr :=
  match tableWord nbits w with
  | .ok cw => some (decode cw)
  | .error _ => none

/-- The word of an instruction, written from the same tables (30_encoding.md R70, R71, R73, R76). -/
def encode : Instr → ChannelWord
  | .reservedOp0 null data => .cmd (cmdWord 0#3 null data)
  | .enc32 ignored v => .cmd (cmdWord opEnc32 0#1 (ignored ++ v))
  | .illegalEnc32Null data => .cmd (cmdWord opEnc32 1#1 data)
  | .dec32 data => .cmd (cmdWord opDec32 0#1 data)
  | .dec32Null data => .cmd (cmdWord opDec32 1#1 data)
  | .tobg u => .cmd (cmdWord opTobg 0#1 u)
  | .illegalTobgNull data => .cmd (cmdWord opTobg 1#1 data)
  | .frombg data => .cmd (cmdWord opFrombg 0#1 data)
  | .frombgNull data => .cmd (cmdWord opFrombg 1#1 data)
  | .reservedOp5 null data => .cmd (cmdWord 5#3 null data)
  | .reservedOp6 null data => .cmd (cmdWord 6#3 null data)
  | .reservedOp7 null data => .cmd (cmdWord 7#3 null data)
  | .eot c => .beat (beatWord 1#1 c)
  | .sym0 => .beat (beatWord 0#1 0x30#8)
  | .sym1 => .beat (beatWord 0#1 0x31#8)
  | .sym2 => .beat (beatWord 0#1 0x32#8)
  | .sym3 => .beat (beatWord 0#1 0x33#8)
  | .sym4 => .beat (beatWord 0#1 0x34#8)
  | .sym5 => .beat (beatWord 0#1 0x35#8)
  | .sym6 => .beat (beatWord 0#1 0x36#8)
  | .sym7 => .beat (beatWord 0#1 0x37#8)
  | .sym8 => .beat (beatWord 0#1 0x38#8)
  | .sym9 => .beat (beatWord 0#1 0x39#8)
  | .symA => .beat (beatWord 0#1 0x41#8)
  | .symB => .beat (beatWord 0#1 0x42#8)
  | .symC => .beat (beatWord 0#1 0x43#8)
  | .symD => .beat (beatWord 0#1 0x44#8)
  | .symE => .beat (beatWord 0#1 0x45#8)
  | .symF => .beat (beatWord 0#1 0x46#8)
  | .symG => .beat (beatWord 0#1 0x47#8)
  | .symH => .beat (beatWord 0#1 0x48#8)
  | .symJ => .beat (beatWord 0#1 0x4A#8)
  | .symK => .beat (beatWord 0#1 0x4B#8)
  | .symM => .beat (beatWord 0#1 0x4D#8)
  | .symN => .beat (beatWord 0#1 0x4E#8)
  | .symP => .beat (beatWord 0#1 0x50#8)
  | .symQ => .beat (beatWord 0#1 0x51#8)
  | .symR => .beat (beatWord 0#1 0x52#8)
  | .symS => .beat (beatWord 0#1 0x53#8)
  | .symT => .beat (beatWord 0#1 0x54#8)
  | .symV => .beat (beatWord 0#1 0x56#8)
  | .symW => .beat (beatWord 0#1 0x57#8)
  | .symX => .beat (beatWord 0#1 0x58#8)
  | .symY => .beat (beatWord 0#1 0x59#8)
  | .symZ => .beat (beatWord 0#1 0x5A#8)
  | .hyphen => .beat (beatWord 0#1 hyphenChar)
  | .space => .beat (beatWord 0#1 spaceChar)
  | .other c => .beat (beatWord 0#1 c)

end Sys2Proof
end

