-- ==== Sys2Proof/Config.lean ====
section
/-! DEFINITION. What is fixed for the machine: the sizes of 00_scope.md R3, the one open parameter
of R4, and the free values of a reset edge (10_state.md R47). -/

namespace Sys2Proof

/-- `RANGE_POLICY`, the one parameter the spec leaves as an argument of the model
(00_scope.md R4; 42_group_formatter.md R184; 92_eei_decisions.md D9). -/
inductive RangePolicy where
  /-- `FROMBG` answers `ValueOutOfRange` when one of the four accumulators is `2^32` or more. -/
  | mag32
  /-- `FROMBG` answers `ValueOutOfRange` when one of the first four segments is longer than 7. -/
  | len7
  /-- A `FROMBG` whose text passes the other checks and has a wide accumulator has no meaning. -/
  | refuse
deriving DecidableEq, Repr

/-- The default of `RANGE_POLICY`; every rule of the spec is written for it (00_scope.md R4). -/
def Config.defaultRangePolicy : RangePolicy := .mag32

/-- `N_GROUPS` (R3). -/
abbrev Config.nGroups : Nat := 4
/-- `ENC_MAX`, the longest encoder output (R3). -/
abbrev Config.encMax : Nat := 7
/-- `HEX_W`, hex digits per decoded group (R3). -/
abbrev Config.hexW : Nat := 8
/-- `UUID_TEXT_LEN` (R3). -/
abbrev Config.uuidTextLen : Nat := 36
/-- `BG_TEXT_MIN` (R3). -/
abbrev Config.bgTextMin : Nat := 7
/-- `BG_TEXT_MAX` (R3). -/
abbrev Config.bgTextMax : Nat := 31

/-! Free values (DESIGN CHOICE, safe: assumption log 2). R47 says that at an edge with `rst = 1`
every register but `st`
"keeps or takes an unspecified value". Each constant below has no body, so nothing can be proved
about its value. It is applied to the register's slot, to the number of reset edges so far and to
the register's old value, so that keeping that value is one of the possibilities. -/

/-- What a `w`-bit register holds after a reset edge. -/
opaque Config.resetBits (w slot n : Nat) (old : BitVec w) : BitVec w
/-- What a 1-bit flag holds after a reset edge. -/
opaque Config.resetFlag (slot n : Nat) (old : Bool) : Bool
/-- What the seven symbol registers hold after a reset edge. -/
opaque Config.resetSyms (n : Nat) (old : Vector Byte 7) : Vector Byte 7
/-- What the result buffer holds after a reset edge. -/
opaque Config.resetBuf (n : Nat) (old : Vector Byte 36) : Vector Byte 36

end Sys2Proof
end

