-- ==== Sys2Proof/Machine/State.lean ====
section
/-! DEFINITION. The state of the model, as plain data: the registers of 10_state.md R30 (`Block`),
the outside world that drives the ports and what it has received (`HostSide`), and the model's own
fields. INVENTORY.md lists each with its rule and its reset value. -/

namespace Sys2Proof.Machine

/-- `st`, the sequencer state (10_state.md R31). The numeric coding is not specified. -/
inductive SeqState where
  /-- No command is running; a command can be taken. -/
  | idle
  /-- The encoder makes one digit per step. -/
  | encIter
  /-- `DEC32` is consuming its text. -/
  | decText
  /-- `FROMBG` is consuming its text. -/
  | fromBgText
  /-- The response is offered. -/
  | rsp
  /-- The result text and its EOT are being sent. -/
  | txt
deriving DecidableEq, Repr

/-- The registers of 10_state.md R30, each under its own name, and the two fields with which the
model decides `RANGE_POLICY = LEN7` (the last two, no registers of the block; DEDUCED, unsafe:
assumption log 7). -/
structure Block where
  /-- `st` (R31). -/
  st : SeqState
  /-- `op_r[2:0]` (R32). -/
  opR : BitVec 3
  /-- `enc_sh[31:0]` (R33). -/
  encSh : BitVec 32
  /-- `enc_sym[0..6]` (R34). -/
  encSym : Vector Byte 7
  /-- `enc_len[2:0]` (R35). -/
  encLen : BitVec 3
  /-- `dec_acc[63:0]` (R36). -/
  decAcc : BitVec 64
  /-- `dec_bad` (R40). -/
  decBad : Bool
  /-- `dec_badc[7:0]` (R40). -/
  decBadc : Byte
  /-- `fmt_uuid[127:0]` (R37). -/
  fmtUuid : BitVec 128
  /-- `fmt_seg[2:0]` (R38). -/
  fmtSeg : BitVec 3
  /-- `fmt_space` (R39). -/
  fmtSpace : Bool
  /-- `fmt_wide` (R41). -/
  fmtWide : Bool
  /-- `out_buf[0..35]` (R42). -/
  outBuf : Vector Byte 36
  /-- `out_len[5:0]` (R42). -/
  outLen : BitVec 6
  /-- `out_pos[5:0]` (R42). -/
  outPos : BitVec 6
  /-- `r_status[2:0]` (R43). -/
  rStatus : BitVec 3
  /-- `r_hexvalid` (R43). -/
  rHexvalid : Bool
  /-- MODEL's own: how many symbols have entered `dec_acc` since it was last written with 0. -/
  segSyms : Nat
  /-- MODEL's own: a segment of more than 7 symbols has been committed. -/
  fmtLong : Bool
deriving DecidableEq, Repr

/-- A response beat, with the fields that carry a value for this operation and status; `none` is a
field without a value (30_encoding.md R74). -/
structure Response where
  /-- `rsp_status`. -/
  status : BitVec 3
  /-- `rsp_char`. -/
  char : Option Byte
  /-- `rsp_acc`. -/
  acc : Option (BitVec 64)
  /-- `rsp_hexvalid`. -/
  hexvalid : Option Bool
  /-- `rsp_uuid`. -/
  uuid : Option (BitVec 128)
  /-- `rsp_len`. -/
  len : BitVec 6
deriving DecidableEq, Repr

/-- A text beat that the block sends: a character, or the EOT beat, whose character is unspecified
(10_state.md R25; 30_encoding.md R73). -/
inductive OutBeat where
  | char (c : Byte)
  | eot
deriving DecidableEq, Repr

/-- What the host does with its two `valid` and two `ready` ports at one edge. A `valid` without a
word to send does nothing, and a word once offered stays offered (70_reset_and_hazards.md R241). -/
structure Levels where
  cmdValid  : Bool
  tinValid  : Bool
  rspReady  : Bool
  toutReady : Bool
deriving DecidableEq, Repr

/-- What the host does at one edge: drive its ports with `rst = 0`, or reset the block (`rst = 1`)
and restart the channels with these words still to send (70_reset_and_hazards.md R231, R255 H6). -/
inductive HostMove where
  | drive (levels : Levels)
  | reset (cmds : List CmdWord) (beats : List BeatWord)
deriving DecidableEq, Repr

/-- The host's side of the four channels. -/
structure HostSide where
  /-- Command beats not yet taken, in order; the head is the one on the port. -/
  cmdQ : List CmdWord
  /-- The head of `cmdQ` was offered at an earlier edge and not taken. -/
  cmdHeld : Bool
  /-- Text beats not yet taken, in order; the head is the one on the port. -/
  tinQ : List BeatWord
  /-- The head of `tinQ` was offered at an earlier edge and not taken. -/
  tinHeld : Bool
  /-- What the host does at the coming edges; after them it never makes the block wait. -/
  moves : List HostMove
  /-- The response beats taken so far, oldest first. -/
  responses : List Response
  /-- The text output beats taken so far, oldest first. -/
  texts : List OutBeat
deriving DecidableEq, Repr

/-- The whole state of the model. -/
structure State where
  /-- The registers of the block. -/
  blk : Block
  /-- The host's side of the channels. -/
  host : HostSide
  /-- `RANGE_POLICY`, a parameter fixed before any step and written by none (10_state.md R46). -/
  policy : RangePolicy
  /-- MODEL's own: reset edges so far, the argument of the free values of Config. -/
  resets : Nat
deriving DecidableEq, Repr

/-- Why the machine stops. -/
inductive Fault where
  /-- A register holds a value for which the spec gives no step: `enc_len` would pass 7, the result
  text would pass 36 characters, `TOBG` would select a fifth group, or `out_pos` is past `out_len`
  (10_state.md R35, R38, R42; 00_scope.md R6). Raised by the `ENC_ITER` and `TXT` steps, only in
  states that no run reaches (DESIGN CHOICE, safe: assumption log 10). Safe: the model stops where
  the spec says nothing. -/
  | noStepGiven
deriving DecidableEq, Repr

/-- Why a step has no meaning. -/
inductive Refusal where
  /-- An instruction without a meaning yet, by its mnemonic. Raised by no arm of `exec`. Safe. -/
  | notModelled (mnemonic : String)
  /-- `RANGE_POLICY = REFUSE`, and a `FROMBG` text that passes the other checks has a wide
  accumulator: "a model gives no meaning" (42_group_formatter.md R184). Raised by `EOT`. Safe. -/
  | wideSegment
  /-- The host offers a text beat that no command owns: the model "gives such a run no meaning"
  (70_reset_and_hazards.md R255 H3, R256, R258). Raised by an edge with `rst = 0`, in every
  sequencer state but the two that consume a text (DESIGN CHOICE, safe: assumption log 6). -/
  | strayText
deriving DecidableEq, Repr

/-- The registers after reset: `st = IDLE` (10_state.md R47). The spec gives no other register a
reset value; each is 0 here, a DESIGN CHOICE, unsafe (assumption log 1). -/
def Block.reset : Block where
  st := .idle
  opR := 0#3
  encSh := 0#32
  encSym := Vector.replicate 7 0#8
  encLen := 0#3
  decAcc := 0#64
  decBad := false
  decBadc := 0#8
  fmtUuid := 0#128
  fmtSeg := 0#3
  fmtSpace := false
  fmtWide := false
  outBuf := Vector.replicate 36 0#8
  outLen := 0#6
  outPos := 0#6
  rStatus := 0#3
  rHexvalid := false
  segSyms := 0
  fmtLong := false

/-- A host that has nothing to send and has received nothing; the host of `State.reset` (DESIGN CHOICE,
unsafe: assumption log 5). -/
def HostSide.silent : HostSide where
  cmdQ := []
  cmdHeld := false
  tinQ := []
  tinHeld := false
  moves := []
  responses := []
  texts := []

/-- The machine right after reset (70_reset_and_hazards.md R230): the block waits for a command. -/
def State.reset : State where
  blk := Block.reset
  host := HostSide.silent
  policy := Config.defaultRangePolicy
  resets := 0

end Sys2Proof.Machine
end

