-- ==== Sys2Proof/Machine/Flags.lean ====
section
/-! DEFINITION. The status codes (60_exceptions.md R200) and the per-command flags `dec_bad`,
`fmt_space`, `fmt_wide` (10_state.md R45): how they are set, and how they choose the status when the
text ends (42_group_formatter.md R178). -/

namespace Sys2Proof.Machine

/-- The outcome codes of a response (60_exceptions.md R200). Code 7 is allocated to nothing. -/
inductive Status where
  | ok | invalidLength | invalidFormat | invalidCharacter | nullInput | valueOutOfRange
  | illegalCommand
deriving DecidableEq, Repr

/-- The 3-bit number of a status (60_exceptions.md R200). -/
def Status.code : Status → BitVec 3
  | .ok => 0#3
  | .invalidLength => 1#3
  | .invalidFormat => 2#3
  | .invalidCharacter => 3#3
  | .nullInput => 4#3
  | .valueOutOfRange => 5#3
  | .illegalCommand => 6#3

/-- What the decoder does with one looked-up character: a symbol enters the accumulator
(41_base32_decoder.md R133), the first character outside the alphabet sets `dec_bad` and is kept in
`dec_badc` (R134), and after that nothing changes (R135). -/
def Block.lookUp (c : Byte) (b : Block) : Block :=
  if b.decBad then b
  else match rev c with
    | some i => { b with decAcc := pushDigit b.decAcc i, segSyms := b.segSyms + 1 }
    | none => { b with decBad := true, decBadc := c }

/-- A space of a `FROMBG` text (42_group_formatter.md R173). -/
def Block.markSpace (b : Block) : Block := { b with fmtSpace := true }

/-- `commit(g)`: slice `g` of `fmt_uuid` takes `dec_acc[31:0]`, and a wide accumulator sets
`fmt_wide` (42_group_formatter.md R176). `fmtLong` is the model's own (DEDUCED, unsafe: assumption
log 7). -/
def Block.commit (g : Nat) (b : Block) : Block :=
  { b with
    fmtUuid := putGroup b.fmtUuid g (b.decAcc.extractLsb' 0 32)
    fmtWide := b.fmtWide || isWide b.decAcc
    fmtLong := b.fmtLong || decide (7 < b.segSyms) }

/-- Step 4 of 42_group_formatter.md R172 under each `RANGE_POLICY` (R184), for a text that passes the
other checks. `none`: the command has no meaning. -/
def rangeStatus (p : RangePolicy) (wide long : Bool) : Option Status :=
  match p with
  | .mag32 => if wide then some .valueOutOfRange else some .ok
  | .len7 => if long then some .valueOutOfRange else some .ok
  | .refuse => if wide then none else some .ok

/-- The status that the flags choose at the EOT of a `FROMBG` text, the last segment already
committed: the first fault in the order of 42_group_formatter.md R178 (60_exceptions.md R210). -/
def fromBgStatus (p : RangePolicy) (b : Block) : Option Status :=
  if b.fmtSpace then some .invalidFormat
  else if b.fmtSeg < 3#3 then some .invalidFormat
  else if b.decBad then some .invalidCharacter
  else rangeStatus p b.fmtWide b.fmtLong

end Sys2Proof.Machine
end

