-- ==== Sys2Proof/Machine/Ops.lean ====
section
/-! DEFINITION. The named operations over the registers that the meanings and the sequencer share:
accepting a command (70_reset_and_hazards.md R245), answering it (the counterpart of taking an
exception, 60_exceptions.md R206), the result text, and the steps of the text states. -/

namespace Sys2Proof.Machine

/-- The writes that every accepting step makes, whatever the command (70_reset_and_hazards.md R245).
The two model's own fields follow `dec_acc` and `fmt_wide`. -/
def Block.beginCommand (op : BitVec 3) (b : Block) : Block :=
  { b with
    opR := op
    decAcc := 0#64, decBad := false
    fmtSeg := 0#3, fmtSpace := false, fmtWide := false
    outLen := 0#6
    segSyms := 0, fmtLong := false }

/-- Delivery of a status: every step that ends a command's work writes `r_status` and enters `RSP`
(10_state.md R43). An error is delivered this way and changes nothing else: no state is saved, no
mode switched, no control transferred (60_exceptions.md R206, R211). -/
def Block.answer (status : Status) (b : Block) : Block :=
  { b with rStatus := status.code, st := .rsp }

/-- A value is loaded into the encoder: `enc_sh <- v; enc_len <- 0` (10_state.md R33, R35). -/
def Block.loadEncoder (v : BitVec 32) (b : Block) : Block :=
  { b with encSh := v, encLen := 0#3 }

/-- Characters written into `out_buf` from position `pos` on. A position past the last entry has no
register: nothing is written there (no rule writes one; DESIGN CHOICE, safe: assumption log 10). -/
def writeText (buf : Vector Byte 36) (pos : Nat) : Text → Vector Byte 36
  | [] => buf
  | c :: cs => writeText (buf.setIfInBounds pos c) (pos + 1) cs

/-- The text is appended to the result: `out_buf[out_len + j] <- t[j]; out_len <- out_len + |t|`
(40_base32_encoder.md R106). -/
def Block.appendText (t : Text) (b : Block) : Block :=
  { b with
    outBuf := writeText b.outBuf b.outLen.toNat t
    outLen := b.outLen + BitVec.ofNat 6 t.length }

/-- The result text is written from position 0: `out_buf[0..] <- t; out_len <- |t|`
(41_base32_decoder.md R136; 42_group_formatter.md R178). -/
def Block.setText (t : Text) (b : Block) : Block :=
  { b with outBuf := writeText b.outBuf 0 t, outLen := BitVec.ofNat 6 t.length }

/-- The EOT of a `DEC32` text (41_base32_decoder.md R136). -/
def Block.endDecText (b : Block) : Block :=
  if b.decBad then b.answer .invalidCharacter
  else if isWide b.decAcc then
    { b with outLen := 0#6, rHexvalid := false }.answer .ok
  else
    { b.setText (hex8 (b.decAcc.extractLsb' 0 32)) with rHexvalid := true }.answer .ok

/-- A hyphen of a `FROMBG` text: it ends one of segments 0 to 3, or stands in a later one and changes
nothing (42_group_formatter.md R174). It writes `dec_acc` with 0 when `dec_bad = 1` too, as R174
and 10_state.md R36 say, although R40 has `dec_acc` no longer change then (DESIGN CHOICE, unsafe
for `dec_acc` alone: assumption log 19). -/
def Block.hyphenStep (b : Block) : Block :=
  if b.fmtSeg < 4#3 then
    { b.commit b.fmtSeg.toNat with
      decAcc := 0#64, segSyms := 0, fmtSeg := b.fmtSeg + 1#3 }
  else b

/-- A character of a `FROMBG` text that is neither space nor hyphen: looked up in segments 0 to 3
(42_group_formatter.md R177), ignored in a later one (R175). -/
def Block.segmentChar (c : Byte) (b : Block) : Block :=
  if b.fmtSeg < 4#3 then b.lookUp c else b

/-- `commit` of the last segment at EOT, when it is one of the first four
(42_group_formatter.md R178). -/
def Block.commitLast (b : Block) : Block :=
  if b.fmtSeg < 4#3 then b.commit b.fmtSeg.toNat else b

/-- The EOT of a `FROMBG` text (42_group_formatter.md R178): the last segment is committed, the flags
choose the status, and an `OK` command has its UUID text. `none`: the command has no meaning under
`RANGE_POLICY = REFUSE` (R184). -/
def Block.endFromBgText (p : RangePolicy) (b : Block) : Option Block :=
  match fromBgStatus p b.commitLast with
  | none => none
  | some .ok => some ((b.commitLast.setText (uuidText b.commitLast.fmtUuid)).answer .ok)
  | some e => some (b.commitLast.answer e)

/-- A command beat acts in `IDLE` only; in any other state `cmd_ready = 0`, the beat is not taken and
nothing changes (70_reset_and_hazards.md R242, R243, R255). -/
def whenIdle (f : Block → Block) (s : State) : Host.Outcome State Fault Refusal :=
  match s.blk.st with
  | .idle => .next { s with blk := f s.blk }
  | .encIter | .decText | .fromBgText | .rsp | .txt => .next s

/-- A character beat acts by `f` in `DEC_TEXT` and by `g` in `FROMBG_TEXT`; in any other state
`tin_ready = 0`, the beat is not taken and nothing changes (70_reset_and_hazards.md R242, R248,
R249, R258). -/
def onText (f g : Block → Block) (s : State) : Host.Outcome State Fault Refusal :=
  match s.blk.st with
  | .decText => .next { s with blk := f s.blk }
  | .fromBgText => .next { s with blk := g s.blk }
  | .idle | .encIter | .rsp | .txt => .next s

end Sys2Proof.Machine
end

