-- ==== Sys2Proof/Machine/Beats.lean ====
section
/-! DEFINITION. The meanings of the thirty-six text-beat rows, one definition per row. The running
operation decides what a character means (30_encoding.md R77): in `DEC_TEXT` the rules of
41_base32_decoder.md section 2 apply, in `FROMBG_TEXT` those of 42_group_formatter.md section 4. -/

namespace Sys2Proof.Machine

/-- `EOT`: the end of the text; its character is ignored. It ends a `DEC32` text by
41_base32_decoder.md R136 and a `FROMBG` text by 42_group_formatter.md R178; in any other state
the beat is not taken. -/
def execEot (_char : Byte) (s : State) : Host.Outcome State Fault Refusal :=
  match s.blk.st with
  | .decText => .next { s with blk := s.blk.endDecText }
  | .fromBgText =>
    match s.blk.endFromBgText s.policy with
    | some b => .next { s with blk := b }
    | none => .refused .wideSegment
  | .idle | .encIter | .rsp | .txt => .next s

/-- `HYPHEN`: not in the alphabet for `DEC32` (41_base32_decoder.md R134), a segment boundary for
`FROMBG` (42_group_formatter.md R174). -/
def execHyphen (s : State) : Host.Outcome State Fault Refusal :=
  onText (Block.lookUp hyphenChar) Block.hyphenStep s

/-- `SPACE`: not in the alphabet for `DEC32` (41_base32_decoder.md R134), marked for `FROMBG` wherever
it stands (42_group_formatter.md R173). -/
def execSpace (s : State) : Host.Outcome State Fault Refusal :=
  onText (Block.lookUp spaceChar) Block.markSpace s

/-- `OTHER`: not in the alphabet (41_base32_decoder.md R134; 42_group_formatter.md R177), ignored after
the fourth hyphen of a `FROMBG` text (R175). -/
def execOther (c : Byte) (s : State) : Host.Outcome State Fault Refusal :=
  onText (Block.lookUp c) (Block.segmentChar c) s

/-! The symbols (20_memory.md R50, R51): a digit for `DEC32` (41_base32_decoder.md R133) and in
segments 0 to 3 of a `FROMBG` text (42_group_formatter.md R177), ignored in later segments (R175). -/

/-- `SYM_0`: the symbol `0`. -/
def execSym0 (s : State) : Host.Outcome State Fault Refusal :=
  onText (Block.lookUp 0x30#8) (Block.segmentChar 0x30#8) s

/-- `SYM_1`: the symbol `1`. -/
def execSym1 (s : State) : Host.Outcome State Fault Refusal :=
  onText (Block.lookUp 0x31#8) (Block.segmentChar 0x31#8) s

/-- `SYM_2`: the symbol `2`. -/
def execSym2 (s : State) : Host.Outcome State Fault Refusal :=
  onText (Block.lookUp 0x32#8) (Block.segmentChar 0x32#8) s

/-- `SYM_3`: the symbol `3`. -/
def execSym3 (s : State) : Host.Outcome State Fault Refusal :=
  onText (Block.lookUp 0x33#8) (Block.segmentChar 0x33#8) s

/-- `SYM_4`: the symbol `4`. -/
def execSym4 (s : State) : Host.Outcome State Fault Refusal :=
  onText (Block.lookUp 0x34#8) (Block.segmentChar 0x34#8) s

/-- `SYM_5`: the symbol `5`. -/
def execSym5 (s : State) : Host.Outcome State Fault Refusal :=
  onText (Block.lookUp 0x35#8) (Block.segmentChar 0x35#8) s

/-- `SYM_6`: the symbol `6`. -/
def execSym6 (s : State) : Host.Outcome State Fault Refusal :=
  onText (Block.lookUp 0x36#8) (Block.segmentChar 0x36#8) s

/-- `SYM_7`: the symbol `7`. -/
def execSym7 (s : State) : Host.Outcome State Fault Refusal :=
  onText (Block.lookUp 0x37#8) (Block.segmentChar 0x37#8) s

/-- `SYM_8`: the symbol `8`. -/
def execSym8 (s : State) : Host.Outcome State Fault Refusal :=
  onText (Block.lookUp 0x38#8) (Block.segmentChar 0x38#8) s

/-- `SYM_9`: the symbol `9`. -/
def execSym9 (s : State) : Host.Outcome State Fault Refusal :=
  onText (Block.lookUp 0x39#8) (Block.segmentChar 0x39#8) s

/-- `SYM_A`: the symbol `A`. -/
def execSymA (s : State) : Host.Outcome State Fault Refusal :=
  onText (Block.lookUp 0x41#8) (Block.segmentChar 0x41#8) s

/-- `SYM_B`: the symbol `B`. -/
def execSymB (s : State) : Host.Outcome State Fault Refusal :=
  onText (Block.lookUp 0x42#8) (Block.segmentChar 0x42#8) s

/-- `SYM_C`: the symbol `C`. -/
def execSymC (s : State) : Host.Outcome State Fault Refusal :=
  onText (Block.lookUp 0x43#8) (Block.segmentChar 0x43#8) s

/-- `SYM_D`: the symbol `D`. -/
def execSymD (s : State) : Host.Outcome State Fault Refusal :=
  onText (Block.lookUp 0x44#8) (Block.segmentChar 0x44#8) s

/-- `SYM_E`: the symbol `E`. -/
def execSymE (s : State) : Host.Outcome State Fault Refusal :=
  onText (Block.lookUp 0x45#8) (Block.segmentChar 0x45#8) s

/-- `SYM_F`: the symbol `F`. -/
def execSymF (s : State) : Host.Outcome State Fault Refusal :=
  onText (Block.lookUp 0x46#8) (Block.segmentChar 0x46#8) s

/-- `SYM_G`: the symbol `G`. -/
def execSymG (s : State) : Host.Outcome State Fault Refusal :=
  onText (Block.lookUp 0x47#8) (Block.segmentChar 0x47#8) s

/-- `SYM_H`: the symbol `H`. -/
def execSymH (s : State) : Host.Outcome State Fault Refusal :=
  onText (Block.lookUp 0x48#8) (Block.segmentChar 0x48#8) s

/-- `SYM_J`: the symbol `J`. -/
def execSymJ (s : State) : Host.Outcome State Fault Refusal :=
  onText (Block.lookUp 0x4A#8) (Block.segmentChar 0x4A#8) s

/-- `SYM_K`: the symbol `K`. -/
def execSymK (s : State) : Host.Outcome State Fault Refusal :=
  onText (Block.lookUp 0x4B#8) (Block.segmentChar 0x4B#8) s

/-- `SYM_M`: the symbol `M`. -/
def execSymM (s : State) : Host.Outcome State Fault Refusal :=
  onText (Block.lookUp 0x4D#8) (Block.segmentChar 0x4D#8) s

/-- `SYM_N`: the symbol `N`. -/
def execSymN (s : State) : Host.Outcome State Fault Refusal :=
  onText (Block.lookUp 0x4E#8) (Block.segmentChar 0x4E#8) s

/-- `SYM_P`: the symbol `P`. -/
def execSymP (s : State) : Host.Outcome State Fault Refusal :=
  onText (Block.lookUp 0x50#8) (Block.segmentChar 0x50#8) s

/-- `SYM_Q`: the symbol `Q`. -/
def execSymQ (s : State) : Host.Outcome State Fault Refusal :=
  onText (Block.lookUp 0x51#8) (Block.segmentChar 0x51#8) s

/-- `SYM_R`: the symbol `R`. -/
def execSymR (s : State) : Host.Outcome State Fault Refusal :=
  onText (Block.lookUp 0x52#8) (Block.segmentChar 0x52#8) s

/-- `SYM_S`: the symbol `S`. -/
def execSymS (s : State) : Host.Outcome State Fault Refusal :=
  onText (Block.lookUp 0x53#8) (Block.segmentChar 0x53#8) s

/-- `SYM_T`: the symbol `T`. -/
def execSymT (s : State) : Host.Outcome State Fault Refusal :=
  onText (Block.lookUp 0x54#8) (Block.segmentChar 0x54#8) s

/-- `SYM_V`: the symbol `V`. -/
def execSymV (s : State) : Host.Outcome State Fault Refusal :=
  onText (Block.lookUp 0x56#8) (Block.segmentChar 0x56#8) s

/-- `SYM_W`: the symbol `W`. -/
def execSymW (s : State) : Host.Outcome State Fault Refusal :=
  onText (Block.lookUp 0x57#8) (Block.segmentChar 0x57#8) s

/-- `SYM_X`: the symbol `X`. -/
def execSymX (s : State) : Host.Outcome State Fault Refusal :=
  onText (Block.lookUp 0x58#8) (Block.segmentChar 0x58#8) s

/-- `SYM_Y`: the symbol `Y`. -/
def execSymY (s : State) : Host.Outcome State Fault Refusal :=
  onText (Block.lookUp 0x59#8) (Block.segmentChar 0x59#8) s

/-- `SYM_Z`: the symbol `Z`. -/
def execSymZ (s : State) : Host.Outcome State Fault Refusal :=
  onText (Block.lookUp 0x5A#8) (Block.segmentChar 0x5A#8) s

end Sys2Proof.Machine
end

