-- ==== Sys2Proof/Machine/Commands.lean ====
section
/-! DEFINITION. The meanings of the twelve command rows: the accepting step of
70_reset_and_hazards.md R245, one definition per row. -/

namespace Sys2Proof.Machine

/-- `RESERVED_OP0`: taken, no text consumed, answered `IllegalCommand` (30_encoding.md R78;
60_exceptions.md R207). -/
def execReservedOp0 (_null : BitVec 1) (_data : BitVec 128) (s : State) :
    Host.Outcome State Fault Refusal :=
  whenIdle (fun b => (b.beginCommand 0#3).answer .illegalCommand) s

/-- `ENC32`: `enc_sh <- cmd_data[31:0]; enc_len <- 0; st <- ENC_ITER`; `cmd_data[127:32]` is ignored
(70_reset_and_hazards.md R245; 30_encoding.md R75). -/
def execEnc32 (_ignored : BitVec 96) (v : BitVec 32) (s : State) :
    Host.Outcome State Fault Refusal :=
  whenIdle (fun b => { (b.beginCommand opEnc32).loadEncoder v with st := .encIter }) s

/-- `ENC32` with `null = 1`: a reserved encoding (30_encoding.md R72, R78). -/
def execIllegalEnc32Null (_data : BitVec 128) (s : State) : Host.Outcome State Fault Refusal :=
  whenIdle (fun b => (b.beginCommand opEnc32).answer .illegalCommand) s

/-- `DEC32`: `st <- DEC_TEXT`; `cmd_data` is ignored (70_reset_and_hazards.md R245). -/
def execDec32 (_data : BitVec 128) (s : State) : Host.Outcome State Fault Refusal :=
  whenIdle (fun b => { b.beginCommand opDec32 with st := .decText }) s

/-- `DEC32 null`: answered `NullInput`, no text beat taken (41_base32_decoder.md R139). -/
def execDec32Null (_data : BitVec 128) (s : State) : Host.Outcome State Fault Refusal :=
  whenIdle (fun b => (b.beginCommand opDec32).answer .nullInput) s

/-- `TOBG`: `fmt_uuid <- cmd_data; enc_sh <- cmd_data[127:96]; enc_len <- 0; st <- ENC_ITER`
(70_reset_and_hazards.md R245; 42_group_formatter.md R162, R167). -/
def execTobg (u : BitVec 128) (s : State) : Host.Outcome State Fault Refusal :=
  whenIdle (fun b =>
    { (b.beginCommand opTobg).loadEncoder (group u 0) with fmtUuid := u, st := .encIter }) s

/-- `TOBG` with `null = 1`: a reserved encoding (30_encoding.md R72, R78). -/
def execIllegalTobgNull (_data : BitVec 128) (s : State) : Host.Outcome State Fault Refusal :=
  whenIdle (fun b => (b.beginCommand opTobg).answer .illegalCommand) s

/-- `FROMBG`: `st <- FROMBG_TEXT`; `cmd_data` is ignored (70_reset_and_hazards.md R245). -/
def execFrombg (_data : BitVec 128) (s : State) : Host.Outcome State Fault Refusal :=
  whenIdle (fun b => { b.beginCommand opFrombg with st := .fromBgText }) s

/-- `FROMBG null`: answered `NullInput`, no text beat taken (42_group_formatter.md R187). -/
def execFrombgNull (_data : BitVec 128) (s : State) : Host.Outcome State Fault Refusal :=
  whenIdle (fun b => (b.beginCommand opFrombg).answer .nullInput) s

/-- `RESERVED_OP5`: answered `IllegalCommand` (30_encoding.md R78; 60_exceptions.md R207). -/
def execReservedOp5 (_null : BitVec 1) (_data : BitVec 128) (s : State) :
    Host.Outcome State Fault Refusal :=
  whenIdle (fun b => (b.beginCommand 5#3).answer .illegalCommand) s

/-- `RESERVED_OP6`: answered `IllegalCommand` (30_encoding.md R78; 60_exceptions.md R207). -/
def execReservedOp6 (_null : BitVec 1) (_data : BitVec 128) (s : State) :
    Host.Outcome State Fault Refusal :=
  whenIdle (fun b => (b.beginCommand 6#3).answer .illegalCommand) s

/-- `RESERVED_OP7`: answered `IllegalCommand` (30_encoding.md R78; 60_exceptions.md R207). -/
def execReservedOp7 (_null : BitVec 1) (_data : BitVec 128) (s : State) :
    Host.Outcome State Fault Refusal :=
  whenIdle (fun b => (b.beginCommand 7#3).answer .illegalCommand) s

end Sys2Proof.Machine
end

