-- ==== Sys2Proof/Machine/Dispatch.lean ====
section
/-! DEFINITION. The dispatch: one arm per constructor of `Instr`, each one direct call of the
instruction's meaning. -/

namespace Sys2Proof.Machine

def exec (i : Instr) (s : State) : Host.Outcome State Fault Refusal :=
  match i with
  -- the command rows
  | .reservedOp0 null data => Sys2Proof.Machine.execReservedOp0 null data s
  | .enc32 ignored v => Sys2Proof.Machine.execEnc32 ignored v s
  | .illegalEnc32Null data => Sys2Proof.Machine.execIllegalEnc32Null data s
  | .dec32 data => Sys2Proof.Machine.execDec32 data s
  | .dec32Null data => Sys2Proof.Machine.execDec32Null data s
  | .tobg u => Sys2Proof.Machine.execTobg u s
  | .illegalTobgNull data => Sys2Proof.Machine.execIllegalTobgNull data s
  | .frombg data => Sys2Proof.Machine.execFrombg data s
  | .frombgNull data => Sys2Proof.Machine.execFrombgNull data s
  | .reservedOp5 null data => Sys2Proof.Machine.execReservedOp5 null data s
  | .reservedOp6 null data => Sys2Proof.Machine.execReservedOp6 null data s
  | .reservedOp7 null data => Sys2Proof.Machine.execReservedOp7 null data s
  -- the text-beat rows
  | .eot char => Sys2Proof.Machine.execEot char s
  | .sym0 => Sys2Proof.Machine.execSym0 s
  | .sym1 => Sys2Proof.Machine.execSym1 s
  | .sym2 => Sys2Proof.Machine.execSym2 s
  | .sym3 => Sys2Proof.Machine.execSym3 s
  | .sym4 => Sys2Proof.Machine.execSym4 s
  | .sym5 => Sys2Proof.Machine.execSym5 s
  | .sym6 => Sys2Proof.Machine.execSym6 s
  | .sym7 => Sys2Proof.Machine.execSym7 s
  | .sym8 => Sys2Proof.Machine.execSym8 s
  | .sym9 => Sys2Proof.Machine.execSym9 s
  | .symA => Sys2Proof.Machine.execSymA s
  | .symB => Sys2Proof.Machine.execSymB s
  | .symC => Sys2Proof.Machine.execSymC s
  | .symD => Sys2Proof.Machine.execSymD s
  | .symE => Sys2Proof.Machine.execSymE s
  | .symF => Sys2Proof.Machine.execSymF s
  | .symG => Sys2Proof.Machine.execSymG s
  | .symH => Sys2Proof.Machine.execSymH s
  | .symJ => Sys2Proof.Machine.execSymJ s
  | .symK => Sys2Proof.Machine.execSymK s
  | .symM => Sys2Proof.Machine.execSymM s
  | .symN => Sys2Proof.Machine.execSymN s
  | .symP => Sys2Proof.Machine.execSymP s
  | .symQ => Sys2Proof.Machine.execSymQ s
  | .symR => Sys2Proof.Machine.execSymR s
  | .symS => Sys2Proof.Machine.execSymS s
  | .symT => Sys2Proof.Machine.execSymT s
  | .symV => Sys2Proof.Machine.execSymV s
  | .symW => Sys2Proof.Machine.execSymW s
  | .symX => Sys2Proof.Machine.execSymX s
  | .symY => Sys2Proof.Machine.execSymY s
  | .symZ => Sys2Proof.Machine.execSymZ s
  | .hyphen => Sys2Proof.Machine.execHyphen s
  | .space => Sys2Proof.Machine.execSpace s
  | .other char => Sys2Proof.Machine.execOther char s

end Sys2Proof.Machine
end

