-- ==== Sys2Proof/Machine/Encoder.lean ====
section
/-! DEFINITION. The `ENC_ITER` step of `base32_encoder`: one digit per step
(40_base32_encoder.md R105), and the end of a value (R106). It needs nothing from the host. -/

namespace Sys2Proof.Machine

/-- `enc_sym[0] <- s; enc_sym[k] <- enc_sym[k-1]` (40_base32_encoder.md R105). -/
def pushSymbol (s : Byte) (v : Vector Byte 7) : Vector Byte 7 :=
  #v[s, v[0], v[1], v[2], v[3], v[4], v[5]]

/-- The digit step: the low five bits choose a symbol, the rest is shifted down by five
(40_base32_encoder.md R105). -/
def Block.encDigit (b : Block) : Block :=
  { b with
    encSym := pushSymbol (alpha (b.encSh.extractLsb' 0 5)) b.encSym
    encLen := b.encLen + 1#3
    encSh := b.encSh >>> 5 }

/-- The symbols of the finished value, `s'[0..n-1]` (40_base32_encoder.md R106). -/
def Block.encText (b : Block) : Text := b.encSym.toList.take b.encLen.toNat

/-- Whether no further group follows: `op_r == ENC32 or fmt_seg == 3` (40_base32_encoder.md R106). -/
def Block.lastValue (b : Block) : Bool := b.opR == opEnc32 || b.fmtSeg == 3#3

/-- `finish` (40_base32_encoder.md R106), after the digit step: the symbols go to the result; the
last value is answered, and after groups 0 to 2 of `TOBG` a hyphen follows and the splitter loads
the next group (42_group_formatter.md R162, R167). `none`: the result would pass its 36 registers or
the group index its four groups, for which the spec has no step (DESIGN CHOICE, safe: assumption
log 10). -/
def Block.finishValue (b : Block) : Option Block :=
  let t := b.encText
  if b.lastValue then
    if b.outLen.toNat + t.length ≤ 36 then some ((b.appendText t).answer .ok) else none
  else if b.fmtSeg < 3#3 ∧ b.outLen.toNat + t.length + 1 ≤ 36 then
    some { (b.appendText (t ++ [hyphenChar])).loadEncoder (group b.fmtUuid (b.fmtSeg.toNat + 1)) with
      fmtSeg := b.fmtSeg + 1#3 }
  else none

/-- One `ENC_ITER` step of the registers (70_reset_and_hazards.md R247). `none`: no step is given
(`enc_len` would pass 7; DESIGN CHOICE, safe: assumption log 10). -/
def Block.encIter (b : Block) : Option Block :=
  if b.encLen = 7#3 then none
  else if b.encDigit.encSh = 0#32 then b.encDigit.finishValue
  else some b.encDigit

/-- The `ENC_ITER` step of the machine. -/
def encIter (s : State) : Host.Outcome State Fault Refusal :=
  match s.blk.encIter with
  | some b => .next { s with blk := b }
  | none => .fault .noStepGiven

end Sys2Proof.Machine
end

