-- ==== Sys2Proof/Machine/Ports.lean ====
section
/-! DEFINITION. The ports (10_state.md R21 to R26), the handshake (70_reset_and_hazards.md R240 to
R242) and what the host's side of a channel does at an edge. Every port of the spec has its function
here, under its own name. A data output that carries no value is `none` (R26; 30_encoding.md R74). -/

namespace Sys2Proof.Machine

/-! Outputs of the block: functions of its registers alone (70_reset_and_hazards.md R242). -/

/-- `cmd_ready = (st == IDLE)` (R22). -/
def Block.cmdReady (b : Block) : Bool := b.st == .idle
/-- `tin_ready = (st == DEC_TEXT or st == FROMBG_TEXT)` (R23). -/
def Block.tinReady (b : Block) : Bool := b.st == .decText || b.st == .fromBgText
/-- `rsp_valid = (st == RSP)` (R24). -/
def Block.rspValid (b : Block) : Bool := b.st == .rsp
/-- `tout_valid = (st == TXT)` (R25). -/
def Block.toutValid (b : Block) : Bool := b.st == .txt
/-- `tout_eot = (out_pos == out_len)` (R25). -/
def Block.toutEot (b : Block) : Bool := b.outPos == b.outLen
/-- `tout_char = out_buf[out_pos]` when `tout_eot = 0` (R25); `none` past the last register. -/
def Block.toutChar (b : Block) : Option Byte :=
  if b.toutEot then none else b.outBuf[b.outPos.toNat]?
/-- `rsp_status` (R24). -/
def Block.rspStatus (b : Block) : BitVec 3 := b.rStatus
/-- `rsp_char = dec_badc`, meaningful only when the status is `InvalidCharacter` (R24). -/
def Block.rspChar (b : Block) : Option Byte :=
  if b.rStatus = Status.invalidCharacter.code then some b.decBadc else none
/-- The response is that of `op` with status `OK`. -/
def Block.answeredOk (op : BitVec 3) (b : Block) : Bool :=
  b.opR == op && b.rStatus == Status.ok.code
/-- `rsp_acc = dec_acc`, meaningful only for `DEC32` with status `OK` (R24). -/
def Block.rspAcc (b : Block) : Option (BitVec 64) :=
  if b.answeredOk opDec32 then some b.decAcc else none
/-- `rsp_hexvalid = r_hexvalid`, meaningful only for `DEC32` with status `OK` (R24). -/
def Block.rspHexvalid (b : Block) : Option Bool :=
  if b.answeredOk opDec32 then some b.rHexvalid else none
/-- `rsp_uuid = fmt_uuid`, meaningful only for `FROMBG` with status `OK` (R24). -/
def Block.rspUuid (b : Block) : Option (BitVec 128) :=
  if b.answeredOk opFrombg then some b.fmtUuid else none
/-- `rsp_len = out_len`, meaningful for every response (R24). -/
def Block.rspLen (b : Block) : BitVec 6 := b.outLen

/-- The response beat that the block offers in `RSP` (10_state.md R24; 30_encoding.md R74). -/
def Block.response (b : Block) : Response where
  status := b.rspStatus
  char := b.rspChar
  acc := b.rspAcc
  hexvalid := b.rspHexvalid
  uuid := b.rspUuid
  len := b.rspLen

/-! Inputs of the block: what the host drives at the coming edge. -/

/-- The host's levels at the coming edge; a host with no move left never makes the block wait. -/
def HostSide.levels (h : HostSide) : Levels :=
  match h.moves with
  | .drive l :: _ => l
  | _ => { cmdValid := true, tinValid := true, rspReady := true, toutReady := true }

/-- `rst` (R21). -/
def HostSide.rst (h : HostSide) : Bool :=
  match h.moves with
  | .reset _ _ :: _ => true
  | _ => false

/-- `cmd_valid` (R22). A beat that was offered and not taken stays offered
(70_reset_and_hazards.md R241). -/
def HostSide.cmdValid (h : HostSide) : Bool :=
  !h.cmdQ.isEmpty && (h.cmdHeld || h.levels.cmdValid)
/-- `tin_valid` (R23), held likewise. -/
def HostSide.tinValid (h : HostSide) : Bool :=
  !h.tinQ.isEmpty && (h.tinHeld || h.levels.tinValid)
/-- `rsp_ready` (R24). -/
def HostSide.rspReady (h : HostSide) : Bool := h.levels.rspReady
/-- `tout_ready` (R25). -/
def HostSide.toutReady (h : HostSide) : Bool := h.levels.toutReady

/-- `{cmd_op, cmd_null, cmd_data}` while `cmd_valid = 1` (R22, R26). -/
def HostSide.cmdPort (h : HostSide) : Option CmdWord :=
  if h.cmdValid then h.cmdQ.head? else none
/-- `{tin_eot, tin_char}` while `tin_valid = 1` (R23, R26). -/
def HostSide.tinPort (h : HostSide) : Option BeatWord :=
  if h.tinValid then h.tinQ.head? else none

/-- A text beat is on offer that no command owns: the block is not consuming a text, and no command
still to be taken has one (70_reset_and_hazards.md R255 H3, R258). -/
def State.strayText (s : State) : Bool :=
  s.host.tinValid && !s.blk.tinReady && !s.host.cmdQ.any takesText

/-! The host's side at an edge. -/

/-- The edge passes: the next move comes up, and the words on offer are held. -/
def HostSide.pass (h : HostSide) : HostSide :=
  { h with moves := h.moves.tail, cmdHeld := h.cmdValid, tinHeld := h.tinValid }
/-- The command beat on the port is taken (70_reset_and_hazards.md R240). -/
def HostSide.takeCmd (h : HostSide) : HostSide :=
  { h with cmdQ := h.cmdQ.tail, cmdHeld := false }
/-- The text beat on the port is taken. -/
def HostSide.takeTin (h : HostSide) : HostSide :=
  { h with tinQ := h.tinQ.tail, tinHeld := false }
/-- The host takes a response beat. -/
def HostSide.receive (r : Response) (h : HostSide) : HostSide :=
  { h with responses := h.responses ++ [r] }
/-- The host takes a text output beat. -/
def HostSide.receiveText (o : OutBeat) (h : HostSide) : HostSide :=
  { h with texts := h.texts ++ [o] }
/-- An edge with `rst = 1`: the host withdraws what it had offered and restarts the channels with the
words it then means to send (70_reset_and_hazards.md R231, R255 H6). -/
def HostSide.restart (cmds : List CmdWord) (beats : List BeatWord) (h : HostSide) : HostSide :=
  { h with
    moves := h.moves.tail
    cmdQ := cmds, cmdHeld := false
    tinQ := beats, tinHeld := false }

end Sys2Proof.Machine
end

