-- ==== Sys2Proof/Machine/Sequencer.lean ====
section
/-! DEFINITION. One rising edge of `clk`: the reset edge (10_state.md R47; 70_reset_and_hazards.md
R230, R231) and the sequencer, state by state (70_reset_and_hazards.md R245 to R251). -/

namespace Sys2Proof.Machine

/-- The registers after an edge with `rst = 1`: `st <- IDLE`, every other register "keeps or takes an
unspecified value" (10_state.md R47), a free value of Config (DESIGN CHOICE, safe: assumption log
2). The model's own two
fields go with `dec_acc` and `fmt_wide` and are written before they are read. -/
def Block.resetEdge (n : Nat) (b : Block) : Block where
  st := .idle
  opR := Config.resetBits 3 0 n b.opR
  encSh := Config.resetBits 32 1 n b.encSh
  encSym := Config.resetSyms n b.encSym
  encLen := Config.resetBits 3 2 n b.encLen
  decAcc := Config.resetBits 64 3 n b.decAcc
  decBad := Config.resetFlag 4 n b.decBad
  decBadc := Config.resetBits 8 5 n b.decBadc
  fmtUuid := Config.resetBits 128 6 n b.fmtUuid
  fmtSeg := Config.resetBits 3 7 n b.fmtSeg
  fmtSpace := Config.resetFlag 8 n b.fmtSpace
  fmtWide := Config.resetFlag 9 n b.fmtWide
  outBuf := Config.resetBuf n b.outBuf
  outLen := Config.resetBits 6 10 n b.outLen
  outPos := Config.resetBits 6 11 n b.outPos
  rStatus := Config.resetBits 3 12 n b.rStatus
  rHexvalid := Config.resetFlag 13 n b.rHexvalid
  segSyms := b.segSyms
  fmtLong := b.fmtLong

/-- An edge with `rst = 1`, whatever else is on the ports (10_state.md R21). -/
def resetEdge (cmds : List CmdWord) (beats : List BeatWord) (s : State) : State :=
  { s with
    blk := s.blk.resetEdge s.resets
    host := s.host.restart cmds beats
    resets := s.resets + 1 }

/-- The state with the edge passed on the host's side and nothing taken. -/
def State.pass (s : State) : State := { s with host := s.host.pass }

/-- `IDLE`: the command on the port is taken and decoded, and the instruction is executed
(70_reset_and_hazards.md R245); without one nothing changes (R246). -/
def idleEdge (s : State) : Host.Outcome State Fault Refusal :=
  match s.host.cmdPort with
  | some w => exec (decode (.cmd w)) { s with host := s.host.pass.takeCmd }
  | none => .next s.pass

/-- `DEC_TEXT` and `FROMBG_TEXT`: the beat on the port is taken, decoded and executed; without one
nothing changes (70_reset_and_hazards.md R248, R249). -/
def textEdge (s : State) : Host.Outcome State Fault Refusal :=
  match s.host.tinPort with
  | some w => exec (decode (.beat w)) { s with host := s.host.pass.takeTin }
  | none => .next s.pass

/-- `RSP`: when the host is ready the response beat is taken: `out_pos <- 0; st <- TXT`
(70_reset_and_hazards.md R250). -/
def rspEdge (s : State) : Host.Outcome State Fault Refusal :=
  if s.host.rspReady then
    .next { s with
      blk := { s.blk with outPos := 0#6, st := .txt }
      host := s.host.pass.receive s.blk.response }
  else .next s.pass

/-- `TXT`: when the host is ready the beat is taken: a character advances `out_pos`, the EOT beat ends
the command (70_reset_and_hazards.md R251). No step is given when `out_pos` is past `out_len` or
past the last register (DESIGN CHOICE, safe: assumption log 10). -/
def txtEdge (s : State) : Host.Outcome State Fault Refusal :=
  if s.host.toutReady then
    if s.blk.outPos < s.blk.outLen then
      match s.blk.outBuf[s.blk.outPos.toNat]? with
      | some c => .next { s with
          blk := { s.blk with outPos := s.blk.outPos + 1#6 }
          host := s.host.pass.receiveText (.char c) }
      | none => .fault .noStepGiven
    else if s.blk.outPos = s.blk.outLen then
      .next { s with
        blk := { s.blk with st := .idle }
        host := s.host.pass.receiveText .eot }
    else .fault .noStepGiven
  else .next s.pass

/-- An edge with `rst = 0`: the case is chosen by `st` (70_reset_and_hazards.md section 3). -/
def clockEdge (s : State) : Host.Outcome State Fault Refusal :=
  match s.blk.st with
  | .idle => idleEdge s
  | .encIter => encIter s.pass
  | .decText => textEdge s
  | .fromBgText => textEdge s
  | .rsp => rspEdge s
  | .txt => txtEdge s

/-- One rising edge of `clk` (10_state.md R21). With `rst = 0`, a text beat on offer that no command
owns is a broken duty of the host: whatever the block is doing, the run has no meaning
(70_reset_and_hazards.md R256, R258; DESIGN CHOICE, safe: assumption log 6). -/
def edge (s : State) : Host.Outcome State Fault Refusal :=
  match s.host.moves with
  | .reset cmds beats :: _ => .next (resetEdge cmds beats s)
  | _ => if s.strayText then .refused .strayText else clockEdge s

/-! Placing one word where the next edge takes it, for `withFetchWord` (DESIGN CHOICE, unsafe:
assumption log 5). -/

/-- A host that is not resetting at the coming edge. -/
def HostSide.driving (h : HostSide) : HostSide :=
  if h.rst then
    { h with moves := .drive h.levels :: h.moves }
  else h

/-- A host that does not offer its text beat at the coming edge. -/
def HostSide.withhold (h : HostSide) : HostSide :=
  { h with tinHeld := false, moves := .drive { h.levels with tinValid := false } :: h.moves.tail }

/-- A text beat on offer is withheld at the coming edge where no command owns it. -/
def State.withholdStray (s : State) : State :=
  if s.strayText then { s with host := s.host.withhold } else s

/-- The command `w` on offer to an idle block. -/
def State.offerCmd (w : CmdWord) (s : State) : State :=
  State.withholdStray { s with
    blk := { s.blk with st := .idle }
    host := { s.host.driving with cmdQ := w :: s.host.cmdQ, cmdHeld := true } }

/-- The text beat `w` on offer to a block that is consuming a text: the one it is in, or else that of
a `FROMBG` command just accepted. -/
def State.offerBeat (w : BeatWord) (s : State) : State :=
  { s with
    blk := if s.blk.tinReady then s.blk
      else { s.blk.beginCommand opFrombg with st := .fromBgText }
    host := { s.host.driving with tinQ := w :: s.host.tinQ, tinHeld := true } }

/-- The word on offer on its channel. -/
def State.offer (cw : ChannelWord) (s : State) : State :=
  match cw with
  | .cmd w => s.offerCmd w
  | .beat w => s.offerBeat w

end Sys2Proof.Machine
end

