-- ==== Sys2Proof/Machine/Step.lean ====
section
/-! DEFINITION. The step: one rising edge of `clk` (10_state.md R21), and the placing of a word where
the next step takes it. -/

namespace Sys2Proof.Machine

/-- One step of the machine. -/
def step (s : State) : Host.Outcome State Fault Refusal := edge s

/-- `s` with the instruction of a table row on offer, so that the very next step takes and executes it
(DESIGN CHOICE, unsafe: assumption log 5). -/
def State.withFetchWord (s : State) (nbits w : Nat) : State :=
  match tableWord nbits w with
  | .ok cw => s.offer cw
  | .error _ => s

end Sys2Proof.Machine
end

