-- ==== Sys2Proof/Machine/Operation.lean ====
section
/-! DEFINITION. The operation level (00_scope.md R5): each operation as a total function from a command
and its text to a response record. It is the level the spec calls normative, and it shares with the
registers only the tables, the operand fields and the renderings. The step level is bound to it by
70_reset_and_hazards.md R252, which the obligations state. -/

namespace Sys2Proof.Machine

/-- The loop of `enc32`: one symbol is put in front, five bits are shifted out, until the rest is zero
(40_base32_encoder.md R100). The first argument bounds the iterations; seven are always enough
(R104). -/
def encLoop : Nat → BitVec 32 → Text → Text
  | 0, _, t => t
  | n + 1, rem, t =>
    let t' := alpha (rem.extractLsb' 0 5) :: t
    if rem >>> 5 = 0#32 then t' else encLoop n (rem >>> 5) t'

/-- `enc32(v)` (40_base32_encoder.md R100). -/
def enc32 (v : BitVec 32) : Text := encLoop 7 v []

/-! The unrolled encoder (40_base32_encoder.md R107), which a block may use in place of the loop: seven
digit stages, a priority encoder and a multiplexer, with no iteration. -/

/-- Digit `k` by slicing, `v[5k+4 : 5k]`; bits past 31 read as 0 (40_base32_encoder.md R101). -/
def digitSlice (v : BitVec 32) (k : Nat) : BitVec 5 := v.extractLsb' (5 * k) 5

/-- The priority encoder over `d_6 != 0, ..., d_1 != 0`, which gives `L(v)` (R107, R102). -/
def priorityLength (v : BitVec 32) : Nat :=
  if digitSlice v 6 ≠ 0#5 then 7
  else if digitSlice v 5 ≠ 0#5 then 6
  else if digitSlice v 4 ≠ 0#5 then 5
  else if digitSlice v 3 ≠ 0#5 then 4
  else if digitSlice v 2 ≠ 0#5 then 3
  else if digitSlice v 1 ≠ 0#5 then 2
  else 1

/-- The multiplexer places `s_{L-1-j}` at output position `j` (40_base32_encoder.md R107). -/
def enc32Unrolled (v : BitVec 32) : Text :=
  (List.range (priorityLength v)).map fun j => alpha (digitSlice v (priorityLength v - 1 - j))

/-- The result of `dec`: an accumulator, or the offending character (41_base32_decoder.md R131). -/
inductive Decoded where
  | acc (a : BitVec 64)
  | bad (c : Byte)
deriving DecidableEq, Repr

/-- The loop of `dec`, from accumulator `a` (41_base32_decoder.md R131). -/
def decFrom (a : BitVec 64) : Text → Decoded
  | [] => .acc a
  | c :: cs =>
    match rev c with
    | some i => decFrom (pushDigit a i) cs
    | none => .bad c

/-- `dec(t)` (41_base32_decoder.md R131). -/
def dec (t : Text) : Decoded := decFrom 0#64 t

/-- The segments of a text: one more than it has hyphens, empty ones kept
(42_group_formatter.md R170). -/
def segments : Text → List Text
  | [] => [[]]
  | c :: cs =>
    if c = hyphenChar then [] :: segments cs
    else match segments cs with
      | [] => [[c]]
      | g :: gs => (c :: g) :: gs

/-- A response record; `none` is a field without a value (30_encoding.md R74). -/
structure Answer where
  status : Status
  char : Option Byte
  acc : Option (BitVec 64)
  hexvalid : Option Bool
  uuid : Option (BitVec 128)
  text : Text
deriving DecidableEq, Repr

/-- `raise <Status>`: no other field has a value and the text is empty (60_exceptions.md R206). -/
def Answer.raise (status : Status) : Answer where
  status := status
  char := none
  acc := none
  hexvalid := none
  uuid := none
  text := []

/-- `raise InvalidCharacter(c)` (60_exceptions.md R203). -/
def Answer.raiseChar (c : Byte) : Answer :=
  { Answer.raise .invalidCharacter with char := some c }

/-- An `OK` response that has a text. -/
def Answer.okText (t : Text) : Answer := { Answer.raise .ok with text := t }

/-- The response beat of the record; `len` is the length of its text (30_encoding.md R74). -/
def Answer.response (a : Answer) : Response where
  status := a.status.code
  char := a.char
  acc := a.acc
  hexvalid := a.hexvalid
  uuid := a.uuid
  len := BitVec.ofNat 6 a.text.length

/-- The text output beats of the record: its characters and one EOT beat
(70_reset_and_hazards.md R251). -/
def Answer.beats (a : Answer) : List OutBeat := a.text.map .char ++ [.eot]

/-- `DEC32(t)` (41_base32_decoder.md R130, R138). -/
def decAnswer (t : Text) : Answer :=
  match dec t with
  | .bad c => .raiseChar c
  | .acc a =>
    { Answer.okText (if isWide a then [] else hex8 (a.extractLsb' 0 32)) with
      acc := some a, hexvalid := some !isWide a }

/-- The text of `TOBG(U)` (42_group_formatter.md R165). -/
def tobgText (u : BitVec 128) : Text :=
  enc32 (group u 0) ++ [hyphenChar] ++ enc32 (group u 1) ++ [hyphenChar]
    ++ enc32 (group u 2) ++ [hyphenChar] ++ enc32 (group u 3)

/-- Steps 4 and 5 of `FROMBG`: the range check on the four accumulators (or, under `LEN7`, on the
lengths of the four segments), and the reassembly (42_group_formatter.md R172, R179, R184). -/
def reassemble (p : RangePolicy) (segs : List Text) (a0 a1 a2 a3 : BitVec 64) : Option Answer :=
  let u := joinGroups (a0.extractLsb' 0 32) (a1.extractLsb' 0 32) (a2.extractLsb' 0 32)
    (a3.extractLsb' 0 32)
  let wide := isWide a0 || isWide a1 || isWide a2 || isWide a3
  let long := segs.any fun s => decide (7 < s.length)
  (rangeStatus p wide long).map fun status =>
    if status = .ok then { Answer.okText (uuidText u) with uuid := some u }
    else .raise status

/-- `FROMBG(t)`: the checks in the order of 42_group_formatter.md R172. `none`: the command has no
meaning under `RANGE_POLICY = REFUSE` (R184). -/
def fromBgAnswer (p : RangePolicy) (t : Text) : Option Answer :=
  if spaceChar ∈ t then some (.raise .invalidFormat)
  else match segments t with
    | s0 :: s1 :: s2 :: s3 :: _ =>
      match dec s0 with
      | .bad c => some (.raiseChar c)
      | .acc a0 =>
        match dec s1 with
        | .bad c => some (.raiseChar c)
        | .acc a1 =>
          match dec s2 with
          | .bad c => some (.raiseChar c)
          | .acc a2 =>
            match dec s3 with
            | .bad c => some (.raiseChar c)
            | .acc a3 => reassemble p [s0, s1, s2, s3] a0 a1 a2 a3
    | _ => some (.raise .invalidFormat)

/-- The response record of a command with its text (which is read by `DEC32` and `FROMBG` with
`null = 0` only): 40_base32_encoder.md R100, 41_base32_decoder.md R130, 42_group_formatter.md R165
and R172, 60_exceptions.md R204 and R207. -/
def answerTo (p : RangePolicy) (w : CmdWord) (t : Text) : Option Answer :=
  if cmdNull w = 0#1 then
    if cmdOp w = opEnc32 then some (.okText (enc32 ((cmdData w).extractLsb' 0 32)))
    else if cmdOp w = opDec32 then some (decAnswer t)
    else if cmdOp w = opTobg then some (.okText (tobgText (cmdData w)))
    else if cmdOp w = opFrombg then fromBgAnswer p t
    else some (.raise .illegalCommand)
  else if cmdOp w = opDec32 ∨ cmdOp w = opFrombg then some (.raise .nullInput)
  else some (.raise .illegalCommand)

/-- One command of a program: its word and, for a command that takes one, its text
(30_encoding.md R87). -/
structure Command where
  word : CmdWord
  text : Text
deriving DecidableEq, Repr

/-- The text beats that the command owns (70_reset_and_hazards.md R258). -/
def Command.beats (c : Command) : List BeatWord :=
  if takesText c.word then textBeats 0#8 c.text else []

/-- The host means to send this program, a list of commands executed top to bottom
(30_encoding.md R87; DESIGN CHOICE, unsafe: assumption log 5). -/
def State.load (program : List Command) (s : State) : State :=
  { s with host := { s.host with
      cmdQ := program.map Command.word
      tinQ := program.flatMap Command.beats } }

end Sys2Proof.Machine
end

