-- ==== Sys2Proof/Safety.lean ====
section
/-! DEFINITION. What counts as a safe run: the invariant of the registers, the duties of the host that
this model can express, and the runs that neither fault nor are refused. -/

namespace Sys2Proof.Machine

/-- The running command has been answered, by a status its operation can give (60_exceptions.md R209)
and with a text length that fits it (30_encoding.md R74). -/
abbrev Block.answered (b : Block) : Prop :=
  (b.rStatus = Status.ok.code ∧
    ((b.opR = opEnc32 ∧ 1 ≤ b.outLen.toNat ∧ b.outLen.toNat ≤ Config.encMax) ∨
     (b.opR = opDec32 ∧ b.rHexvalid = !isWide b.decAcc ∧
       b.outLen.toNat = if b.rHexvalid then Config.hexW else 0) ∨
     (b.opR = opTobg ∧ Config.bgTextMin ≤ b.outLen.toNat ∧ b.outLen.toNat ≤ Config.bgTextMax) ∨
     (b.opR = opFrombg ∧ b.outLen.toNat = Config.uuidTextLen))) ∨
  (b.outLen.toNat = 0 ∧
    ((b.rStatus = Status.invalidCharacter.code ∧ (b.opR = opDec32 ∨ b.opR = opFrombg)) ∨
     (b.rStatus = Status.nullInput.code ∧ (b.opR = opDec32 ∨ b.opR = opFrombg)) ∨
     (b.rStatus = Status.invalidFormat.code ∧ b.opR = opFrombg) ∨
     (b.rStatus = Status.valueOutOfRange.code ∧ b.opR = opFrombg) ∨
     (b.rStatus = Status.illegalCommand.code ∧ b.opR ≠ opDec32 ∧ b.opR ≠ opFrombg)))

/-- The encoder is at work on a value of which `enc_len` digits are made, for `ENC32` or for one of
the four groups of `TOBG` (10_state.md R33 to R35, R38, R42). -/
abbrev Block.encoding (b : Block) : Prop :=
  b.encLen.toNat ≤ 6 ∧ b.encSh.toNat < 2 ^ (32 - 5 * b.encLen.toNat) ∧
    ((b.opR = opEnc32 ∧ b.fmtSeg = 0#3 ∧ b.outLen.toNat = 0) ∨
     (b.opR = opTobg ∧ b.fmtSeg.toNat ≤ 3 ∧ 2 * b.fmtSeg.toNat ≤ b.outLen.toNat ∧
       b.outLen.toNat ≤ 8 * b.fmtSeg.toNat))

/-- The invariant of the registers: what each sequencer state says about the others. -/
abbrev Block.inv (b : Block) : Prop :=
  (b.st = .encIter → b.encoding) ∧
  (b.st = .decText → b.opR = opDec32 ∧ b.outLen.toNat = 0) ∧
  (b.st = .fromBgText → b.opR = opFrombg ∧ b.outLen.toNat = 0 ∧ b.fmtSeg.toNat ≤ 4) ∧
  (b.st = .rsp → b.answered) ∧
  (b.st = .txt → b.answered ∧ b.outPos.toNat ≤ b.outLen.toNat)

/-- The invariant of the machine. -/
abbrev State.inv (s : State) : Prop := s.blk.inv

/-- How many commands of the list take a text. -/
def textCommands (cmds : List CmdWord) : Nat := cmds.countP takesText

/-- How many texts the beats end. -/
def textEnds (beats : List BeatWord) : Nat := beats.countP fun w => beatEot w = 1#1

/-- The beats are `n` whole texts (70_reset_and_hazards.md R255 H2, H3). -/
abbrev wholeTexts (n : Nat) (beats : List BeatWord) : Prop :=
  textEnds beats = n ∧ ∀ w ∈ beats.getLast?, beatEot w = 1#1

/-- The same of what the host sends after a reset (70_reset_and_hazards.md R255 H6). -/
def HostMove.dutiful : HostMove → Bool
  | .drive _ => true
  | .reset cmds beats => decide (wholeTexts (textCommands cmds) beats)

/-- The host keeps duties H2, H3 and H6 of 70_reset_and_hazards.md R255: the beats still to come are
exactly one text for each text command still to come and for the one that is consuming its text.
H1 holds by construction (`HostSide.cmdValid`), H4 because a host with no move left is ready, and
H5 because a response shows no field without a value. -/
abbrev State.dutiful (s : State) : Prop :=
  wholeTexts (textCommands s.host.cmdQ + if s.blk.tinReady then 1 else 0) s.host.tinQ ∧
    s.host.moves.all HostMove.dutiful = true

/-- The step ends in a next state. -/
def State.safe (s : State) : Prop := ∃ t, step s = .next t

/-- The host resets the block at none of the coming edges. -/
def HostSide.noReset (h : HostSide) : Prop := ∀ m ∈ h.moves, ∃ l, m = .drive l

end Sys2Proof.Machine
end

