-- ==== Sys2Proof/WellFormed.lean ====
section
/-! DEFINITION. Which terms of `Instr` are instructions. Every field but one takes all the values of
its width; the character of `OTHER` must be one that no other beat row has (30_encoding.md R77). -/

namespace Sys2Proof

/-- The one check: an `OTHER` character is of class `OTHER` (30_encoding.md R77). -/
def Instr.wellFormed (i : Instr) : Bool :=
  match i with
  | .reservedOp0 _ _ | .reservedOp5 _ _ | .reservedOp6 _ _ | .reservedOp7 _ _ => true
  | .enc32 _ _ | .illegalEnc32Null _ | .tobg _ | .illegalTobgNull _ => true
  | .dec32 _ | .dec32Null _ | .frombg _ | .frombgNull _ => true
  | .eot _ | .hyphen | .space => true
  | .sym0 | .sym1 | .sym2 | .sym3 | .sym4 | .sym5 | .sym6 | .sym7 => true
  | .sym8 | .sym9 | .symA | .symB | .symC | .symD | .symE | .symF => true
  | .symG | .symH | .symJ | .symK | .symM | .symN | .symP | .symQ => true
  | .symR | .symS | .symT | .symV | .symW | .symX | .symY | .symZ => true
  | .other c => Sys2Proof.Machine.charClass c == .other

end Sys2Proof
end

