-- ==== Sys2Proof/Certificates/Slice0/Obligations.lean ====
section
/-! DEFINITION. The statements for the provers. Each docstring names the rule of spec/ it formalises.
The helper definitions under Sys2Proof.Claims write out, from the rules' own words, what the
statements compare the model with. -/

namespace Sys2Proof.Claims

open Sys2Proof.Machine

/-- `k` steps of the machine. -/
def runs (k : Nat) (s : State) : Host.Outcome State Fault Refusal := Host.Core.run Sys2Proof.core k s

/-- The alphabet as the string of 20_memory.md R50 writes it, each symbol with its table row. -/
def alphabetRows : List (Char × Instr) :=
  [('0', .sym0), ('1', .sym1), ('2', .sym2), ('3', .sym3), ('4', .sym4), ('5', .sym5), ('6', .sym6), ('7', .sym7)] ++
  [('8', .sym8), ('9', .sym9), ('A', .symA), ('B', .symB), ('C', .symC), ('D', .symD), ('E', .symE), ('F', .symF)] ++
  [('G', .symG), ('H', .symH), ('J', .symJ), ('K', .symK), ('M', .symM), ('N', .symN), ('P', .symP), ('Q', .symQ)] ++
  [('R', .symR), ('S', .symS), ('T', .symT), ('V', .symV), ('W', .symW), ('X', .symX), ('Y', .symY), ('Z', .symZ)]

/-- The ASCII code of a character (30_encoding.md R76). -/
def code (c : Char) : Byte := BitVec.ofNat 8 c.toNat

/-- The symbol rows of spec/opcode_table.json with their digit values. -/
def symbolDigits : List (Instr × BitVec 5) :=
  [(.sym0, 0), (.sym1, 1), (.sym2, 2), (.sym3, 3), (.sym4, 4), (.sym5, 5), (.sym6, 6), (.sym7, 7)] ++
  [(.sym8, 8), (.sym9, 9), (.symA, 10), (.symB, 11), (.symC, 12), (.symD, 13), (.symE, 14), (.symF, 15)] ++
  [(.symG, 16), (.symH, 17), (.symJ, 18), (.symK, 19), (.symM, 20), (.symN, 21), (.symP, 22), (.symQ, 23)] ++
  [(.symR, 24), (.symS, 25), (.symT, 26), (.symV, 27), (.symW, 28), (.symX, 29), (.symY, 30), (.symZ, 31)]

/-- `i` is the row of the character beat `{0, c}`: a symbol, the hyphen, the space or `OTHER`. -/
def IsCharacter (i : Instr) (c : Byte) : Prop :=
  i.wellFormed = true ∧ encode i = .beat (beatWord 0#1 c)

/-- `i` is a row of the command channel. -/
def IsCommand (i : Instr) : Prop := ∃ w, encode i = .cmd w

/-- `i` is a row of the text input channel. -/
def IsBeat (i : Instr) : Prop := ∃ w, encode i = .beat w

/-- The writes that 70_reset_and_hazards.md R245 gives every accepting step. The values `n` and `l` of
the model's own two fields are no part of the rule. -/
def cleared (op : BitVec 3) (n : Nat) (l : Bool) (b : Block) : Block :=
  { b with
    opR := op
    decAcc := 0#64, decBad := false
    fmtSeg := 0#3, fmtSpace := false, fmtWide := false
    outLen := 0#6
    segSyms := n, fmtLong := l }

/-- The case table of 70_reset_and_hazards.md R245, on the registers already cleared. -/
def acceptedBy (w : CmdWord) (b : Block) : Block :=
  if cmdOp w = 1#3 ∧ cmdNull w = 0#1 then
    { b with encSh := (cmdData w).extractLsb' 0 32, encLen := 0#3, st := .encIter }
  else if cmdOp w = 3#3 ∧ cmdNull w = 0#1 then
    { b with
      fmtUuid := cmdData w
      encSh := (cmdData w).extractLsb' 96 32, encLen := 0#3, st := .encIter }
  else if cmdOp w = 2#3 ∧ cmdNull w = 0#1 then { b with st := .decText }
  else if cmdOp w = 4#3 ∧ cmdNull w = 0#1 then { b with st := .fromBgText }
  else if (cmdOp w = 2#3 ∨ cmdOp w = 4#3) ∧ cmdNull w = 1#1 then
    { b with rStatus := 4#3, st := .rsp }
  else { b with rStatus := 6#3, st := .rsp }

/-- The response of an error other than `InvalidCharacter`: a status and nothing else
(30_encoding.md R74). -/
def bareResponse (status : BitVec 3) : Response where
  status := status
  char := none
  acc := none
  hexvalid := none
  uuid := none
  len := 0#6

/-- The host's side after an edge at which nothing is taken: the next move comes up and what was on
offer stays on offer. -/
def passed (h : HostSide) : HostSide :=
  { h with moves := h.moves.tail, cmdHeld := h.cmdValid, tinHeld := h.tinValid }

/-- The host's side after an edge at which the command beat is taken. -/
def passedCmd (h : HostSide) : HostSide :=
  { h with
    moves := h.moves.tail, tinHeld := h.tinValid
    cmdQ := h.cmdQ.tail, cmdHeld := false }

/-- The host's side after an edge at which the text beat is taken. -/
def passedTin (h : HostSide) : HostSide :=
  { h with
    moves := h.moves.tail, cmdHeld := h.cmdValid
    tinQ := h.tinQ.tail, tinHeld := false }

/-- Some of these commands has a text: `DEC32` or `FROMBG` with `null = 0`
(70_reset_and_hazards.md R258). -/
def SomeText (cmds : List CmdWord) : Prop :=
  ∃ w ∈ cmds, cmdNull w = 0#1 ∧ (cmdOp w = 2#3 ∨ cmdOp w = 4#3)

/-- A text beat on offer, if there is one, has a command that can own it: the one that is consuming
its text, or one still to be taken. That is duty H3 of 70_reset_and_hazards.md R255, by R258; of a
host that breaks it the rules say nothing (R256). -/
def Owned (s : State) : Prop :=
  s.host.tinPort = none ∨ s.blk.st = .decText ∨ s.blk.st = .fromBgText ∨ SomeText s.host.cmdQ

/-- `new` is `old` with the text `t` written from position `pos` on. -/
def Written (old new : Vector Byte 36) (pos : Nat) (t : Text) : Prop :=
  ∀ k, (h : k < 36) →
    new[k] = if hk : pos ≤ k ∧ k < pos + t.length then t[k - pos] else old[k]

/-- `new` is `old` with its 32-bit slice `g` holding `v` and the other slices kept. -/
def Committed (old new : BitVec 128) (g : Nat) (v : BitVec 32) : Prop :=
  ∀ k, k < 4 → group new k = if k = g then v else group old k

/-- `acc[63:32] != 0`. -/
def Wide (a : BitVec 64) : Prop := a.extractLsb' 32 32 ≠ 0#32

/-- Which sequencer states may follow (70_reset_and_hazards.md R253), by the state before the step and
what is on the ports. -/
def nextSeqState (s : State) : SeqState :=
  if s.host.rst then .idle
  else match s.blk.st with
    | .idle =>
      match s.host.cmdPort with
      | none => .idle
      | some w =>
        if cmdNull w = 0#1 ∧ (cmdOp w = 1#3 ∨ cmdOp w = 3#3) then .encIter
        else if cmdNull w = 0#1 ∧ cmdOp w = 2#3 then .decText
        else if cmdNull w = 0#1 ∧ cmdOp w = 4#3 then .fromBgText
        else .rsp
    | .encIter =>
      if s.blk.encSh >>> 5 = 0#32 ∧ (s.blk.opR = 1#3 ∨ s.blk.fmtSeg = 3#3) then .rsp
      else .encIter
    | .decText =>
      if (s.host.tinPort.map beatEot) = some 1#1 then .rsp else .decText
    | .fromBgText =>
      if (s.host.tinPort.map beatEot) = some 1#1 then .rsp else .fromBgText
    | .rsp => if s.host.rspReady then .txt else .rsp
    | .txt => if s.host.toutReady ∧ s.blk.outPos = s.blk.outLen then .idle else .txt

/-- `d_k = (v >> 5k) & 31` (40_base32_encoder.md R101). -/
def digit (v : BitVec 32) (k : Nat) : BitVec 5 := BitVec.ofNat 5 (v.toNat / 32 ^ k)

/-- `bitlen(v)`, the number of bits without leading zeros (00_scope.md section 7). -/
def bitlen (n : Nat) : Nat := if n = 0 then 0 else n.log2 + 1

/-- `L(v)`: 1 for zero, else `ceil(bitlen(v) / 5)` (40_base32_encoder.md R102). -/
def encLength (v : BitVec 32) : Nat := if v = 0#32 then 1 else (bitlen v.toNat + 4) / 5

/-- `sum over j of i_j * 32^(n-1-j)` (41_base32_decoder.md R132). -/
def positional : List (BitVec 5) → Nat
  | [] => 0
  | d :: ds => d.toNat * 32 ^ ds.length + positional ds

/-- `h(k)`: how many hyphens stand before hex digit `k` of the canonical text (30_encoding.md R86). -/
def hyphensBefore (k : Nat) : Nat :=
  if k ≤ 7 then 0 else if k ≤ 11 then 1 else if k ≤ 15 then 2 else if k ≤ 19 then 3 else 4

/-- Hex digit `k` of a UUID value, `U[127-4k : 124-4k]` (42_group_formatter.md R160). -/
def hexDigit (u : BitVec 128) (k : Nat) : BitVec 4 := u.extractLsb' (124 - 4 * k) 4

/-- The characters before the fourth hyphen that are not hyphens, in text order. -/
def checkedChars (t : Text) : Text := ((segments t).take 4).flatten

/-- What can be seen from outside of a run: the sequencer's ports follow `st`
(70_reset_and_hazards.md R242), and the host's side holds what the host sent and received. -/
def seen : Host.Outcome State Fault Refusal → (SeqState × HostSide) ⊕ (Fault ⊕ Refusal)
  | .next t => .inl (t.blk.st, t.host)
  | .fault f => .inr (.inl f)
  | .refused r => .inr (.inr r)

end Sys2Proof.Claims

open Sys2Proof Sys2Proof.Machine Sys2Proof.Claims

/-- Words written out in the spec (95_test_vectors.md, programs P1 to P3, vectors E32, D34;
30_encoding.md R70, R73, R76) decode to the rows they stand for. -/
def Obligations.WordsOfTheSpecDecode : Prop :=
  decode (.cmd 0x6550E8400E29B41D4A716446655440000#132) =
      .tobg 0x550E8400E29B41D4A716446655440000#128 ∧
  decode (.cmd 0x2AAAAAAAAAAAAAAAAAAAAAAAA0000001F#132) =
      .enc32 0xAAAAAAAAAAAAAAAAAAAAAAAA#96 0x1F#32 ∧
  decode (.cmd 0x30000000000000000000000000000001F#132) = .illegalEnc32Null 0x1F#128 ∧
  decode (.cmd 0x400000000000000000000000000000000#132) = .dec32 0#128 ∧
  decode (.cmd 0x500000000000000000000000000000000#132) = .dec32Null 0#128 ∧
  decode (.cmd 0x800000000000000000000000000000000#132) = .frombg 0#128 ∧
  decode (.cmd 0x900000000000000000000000000000000#132) = .frombgNull 0#128 ∧
  decode (.cmd 0xE00000000000000000000000000000000#132) = .reservedOp7 0#1 0#128 ∧
  decode (.cmd 0#132) = .reservedOp0 0#1 0#128 ∧
  decode (.beat 0x031#9) = .sym1 ∧ decode (.beat 0x05A#9) = .symZ ∧
  decode (.beat 0x02D#9) = .hyphen ∧ decode (.beat 0x020#9) = .space ∧
  decode (.beat 0x049#9) = .other 0x49#8 ∧ decode (.beat 0x080#9) = .other 0x80#8 ∧
  decode (.beat 0x100#9) = .eot 0x00#8

/-- Decoding the word of any well-formed instruction gives the instruction back, with every operand
(30_encoding.md R70, R71, R73, R77, R78). -/
def Obligations.DecodeReadsBackEncode : Prop :=
  ∀ i : Instr, i.wellFormed = true → decode (encode i) = i

/-- Every command word and every beat is the encoding of the well-formed instruction it decodes to:
no bit of a word is dropped and every word has a row (30_encoding.md R70, R73, R77, R78). -/
def Obligations.EncodeReadsBackDecode : Prop :=
  ∀ cw : ChannelWord, (decode cw).wellFormed = true ∧ encode (decode cw) = cw

/-- `ALPHA`, `REV` and the symbol rows, against the string `0123456789ABCDEFGHJKMNPQRSTVWXYZ` of
20_memory.md R50 in its ASCII codes (30_encoding.md R76; log 4). -/
def Obligations.AlphabetIsTheStringOfTheSpec : Prop :=
  alphabetRows.length = 32 ∧
  ∀ k : Fin 32, ∀ r ∈ alphabetRows[k.val]?,
    alpha (BitVec.ofNat 5 k) = code r.1 ∧ rev (code r.1) = some (BitVec.ofNat 5 k) ∧
    decode (.beat (beatWord 0#1 (code r.1))) = r.2

/-- 20_memory.md R51: `REV[c] = {1, i}` when `ALPHA[i] = c` for some `i`, and not valid for every
other `c`; 32 codes are valid. -/
def Obligations.RevIsTheInverseOfAlpha : Prop :=
  (∀ (c : Byte) (i : BitVec 5), rev c = some i ↔ alpha i = c) ∧
  (List.range 256).countP (fun n => (rev (BitVec.ofNat 8 n)).isSome) = 32 ∧
  (∀ c : Byte, 0x61#8 ≤ c → c ≤ 0x7A#8 → rev c = none) ∧
  (∀ c ∈ [0x49#8, 0x4C#8, 0x4F#8, 0x55#8, 0x2D#8, 0x20#8], rev c = none) ∧
  (∀ c : Byte, 0x80#8 ≤ c → rev c = none)

/-- 30_encoding.md R77: the sizes of the four classes, and the row a character beat decodes to by
its class. -/
def Obligations.EveryCodeHasOneClass : Prop :=
  (List.range 256).countP (fun n => charClass (BitVec.ofNat 8 n) = .sym) = 32 ∧
  (List.range 256).countP (fun n => charClass (BitVec.ofNat 8 n) = .other) = 222 ∧
  (∀ c : Byte, charClass c = .hyphen ↔ c = 0x2D#8) ∧
  (∀ c : Byte, charClass c = .space ↔ c = 0x20#8) ∧
  (∀ c : Byte, charClass c = .other ↔ decode (.beat (beatWord 0#1 c)) = .other c)

/-- 70_reset_and_hazards.md R245, the whole rule: the registers written at the step that takes a
command beat, for every header; a register not named keeps its value, and the beat is consumed.
`Owned` is duty H3 of R255, without which R256 gives the run no meaning. -/
def Obligations.AcceptingStepFollowsTheTable : Prop :=
  ∀ (s : State) (w : CmdWord), s.host.rst = false → Owned s → s.blk.st = .idle →
    s.host.cmdPort = some w →
    ∃ n l, step s = .next { s with
      blk := acceptedBy w (cleared (cmdOp w) n l s.blk)
      host := passedCmd s.host }

/-- `ENC32` and `TOBG` in `IDLE` always complete their accepting step: the value is loaded,
`cmd_data[127:32]` of `ENC32` is ignored, and no other register changes (70_reset_and_hazards.md
R245; 30_encoding.md R75; 42_group_formatter.md R167). -/
def Obligations.EncodingCommandsAreAccepted : Prop :=
  ∀ (ig : BitVec 96) (v : BitVec 32) (u : BitVec 128) (s : State), s.blk.st = .idle →
    (∃ n l, exec (.enc32 ig v) s = .next { s with
      blk := { cleared 1#3 n l s.blk with encSh := v, encLen := 0#3, st := .encIter } }) ∧
    (∃ n l, exec (.tobg u) s = .next { s with
      blk := { cleared 3#3 n l s.blk with
        fmtUuid := u
        encSh := u.extractLsb' 96 32, encLen := 0#3, st := .encIter } })

/-- `DEC32` and `FROMBG` in `IDLE` always complete their accepting step; `cmd_data` is ignored
(70_reset_and_hazards.md R245; 30_encoding.md R75). -/
def Obligations.TextCommandsAreAccepted : Prop :=
  ∀ (data : BitVec 128) (s : State), s.blk.st = .idle →
    (∃ n l, exec (.dec32 data) s = .next { s with
      blk := { cleared 2#3 n l s.blk with st := .decText } }) ∧
    (∃ n l, exec (.frombg data) s = .next { s with
      blk := { cleared 4#3 n l s.blk with st := .fromBgText } })

/-- 41_base32_decoder.md R139 and 42_group_formatter.md R187: the absent text is answered
`NullInput`, no text beat is taken and no other field has a value; the empty text of `FROMBG` stays
`InvalidFormat`. -/
def Obligations.NullTextIsAnsweredNullInput : Prop :=
  (∀ (data : BitVec 128) (s : State), s.blk.st = .idle →
    (∃ n l, exec (.dec32Null data) s = .next { s with
        blk := { cleared 2#3 n l s.blk with rStatus := 4#3, st := .rsp } } ∧
      Block.response { cleared 2#3 n l s.blk with rStatus := 4#3, st := .rsp } =
        bareResponse 4#3) ∧
    (∃ n l, exec (.frombgNull data) s = .next { s with
        blk := { cleared 4#3 n l s.blk with rStatus := 4#3, st := .rsp } } ∧
      Block.response { cleared 4#3 n l s.blk with rStatus := 4#3, st := .rsp } =
        bareResponse 4#3)) ∧
  (∀ p : RangePolicy, fromBgAnswer p [] = some (.raise .invalidFormat))

/-- 30_encoding.md R78 and 60_exceptions.md R207: every reserved encoding is taken, consumes no text
beat and is answered `IllegalCommand` with `len = 0`. -/
def Obligations.ReservedEncodingsAreIllegalCommands : Prop :=
  ∀ (null : BitVec 1) (data : BitVec 128) (s : State), s.blk.st = .idle →
    ∀ r ∈ [(Instr.reservedOp0 null data, 0#3), (.illegalEnc32Null data, 1#3),
        (.illegalTobgNull data, 3#3), (.reservedOp5 null data, 5#3),
        (.reservedOp6 null data, 6#3), (.reservedOp7 null data, 7#3)],
      ∃ n l, exec r.1 s = .next { s with
          blk := { cleared r.2 n l s.blk with rStatus := 6#3, st := .rsp } } ∧
        Block.response { cleared r.2 n l s.blk with rStatus := 6#3, st := .rsp } =
          bareResponse 6#3

/-- 70_reset_and_hazards.md R243: a command beat is taken only in `IDLE`, that step leaves `IDLE`,
and the block comes back only after the response beat and the EOT beat have been taken. The first
clause, that `exec` of a command row outside `IDLE` answers the same state, is the model's choice
(log 14). -/
def Obligations.CommandsNeverOverlap : Prop :=
  (∀ (i : Instr) (s : State), IsCommand i → s.blk.st ≠ .idle → exec i s = .next s) ∧
  (∀ s t : State, s.host.rst = false → step s = .next t →
    (t.host.cmdQ ≠ s.host.cmdQ → s.blk.st = .idle ∧ t.blk.st ≠ .idle ∧
      ∃ w, s.host.cmdQ = w :: t.host.cmdQ) ∧
    (s.blk.st ≠ .idle → t.blk.st = .idle →
      s.blk.st = .txt ∧ t.host.texts = s.host.texts ++ [.eot]) ∧
    (s.blk.st ≠ .txt → t.blk.st = .txt →
      s.blk.st = .rsp ∧ t.host.responses = s.host.responses ++ [s.blk.response]))

/-- 70_reset_and_hazards.md R258: text beats are taken in `DEC_TEXT` and `FROMBG_TEXT` only, and
each is left at the first EOT beat. The first clause, that `exec` of a beat row outside the text
states answers the same state, is the model's choice (log 14). -/
def Obligations.BeatsAreTakenOnlyInTextStates : Prop :=
  (∀ (i : Instr) (s : State), IsBeat i → s.blk.st ≠ .decText → s.blk.st ≠ .fromBgText →
    exec i s = .next s) ∧
  (∀ s t : State, s.host.rst = false → step s = .next t →
    (t.host.tinQ ≠ s.host.tinQ →
      (s.blk.st = .decText ∨ s.blk.st = .fromBgText) ∧
      ∃ w, s.host.tinQ = w :: t.host.tinQ ∧
        (beatEot w = 1#1 → t.blk.st = .rsp) ∧ (beatEot w = 0#1 → t.blk.st = s.blk.st)))

/-- 41_base32_decoder.md R133, for each of the 32 symbol rows and its digit value in the table. -/
def Obligations.SymbolStepOfDec32 : Prop :=
  ∀ r ∈ symbolDigits, ∀ s : State, s.blk.st = .decText → s.blk.decBad = false →
    ∃ n, exec r.1 s = .next { s with
      blk := { s.blk with
        decAcc := BitVec.ofNat 64 (32 * s.blk.decAcc.toNat + r.2.toNat), segSyms := n } }

/-- 41_base32_decoder.md R134: the first character outside the alphabet (hyphen and space among
them) is marked and kept; after it every character changes nothing. -/
def Obligations.InvalidCharacterStepOfDec32 : Prop :=
  ∀ (i : Instr) (c : Byte) (s : State), IsCharacter i c → s.blk.st = .decText →
    (s.blk.decBad = false → (∀ d, alpha d ≠ c) →
      exec i s = .next { s with blk := { s.blk with decBad := true, decBadc := c } }) ∧
    (s.blk.decBad = true → exec i s = .next s)

/-- 41_base32_decoder.md R136, all three cases. -/
def Obligations.EotStepOfDec32 : Prop :=
  ∀ (c : Byte) (s : State), s.blk.st = .decText →
    (s.blk.decBad = true →
      exec (.eot c) s = .next { s with blk := { s.blk with rStatus := 3#3, st := .rsp } }) ∧
    (s.blk.decBad = false → ¬ Wide s.blk.decAcc → ∃ buf,
      Written s.blk.outBuf buf 0 (hex8 (s.blk.decAcc.extractLsb' 0 32)) ∧
      exec (.eot c) s = .next { s with
        blk := { s.blk with
          rStatus := 0#3, outBuf := buf, outLen := 8#6, rHexvalid := true, st := .rsp } }) ∧
    (s.blk.decBad = false → Wide s.blk.decAcc →
      exec (.eot c) s = .next { s with
        blk := { s.blk with
          rStatus := 0#3, outLen := 0#6, rHexvalid := false, st := .rsp } })

/-- 42_group_formatter.md R173: in every segment, and after a bad character too. -/
def Obligations.SpaceStepOfFrombg : Prop :=
  ∀ s : State, s.blk.st = .fromBgText →
    exec .space s = .next { s with blk := { s.blk with fmtSpace := true } }

/-- 42_group_formatter.md R174 with `commit` of R176. That `dec_acc` takes 0 when `dec_bad = 1` too
is R174 as it stands; 10_state.md R40 says otherwise, and following R174 is the model's choice (log
19). -/
def Obligations.HyphenStepOfFrombg : Prop :=
  ∀ s : State, s.blk.st = .fromBgText →
    (s.blk.fmtSeg.toNat < 4 → ∃ u l n,
      Committed s.blk.fmtUuid u s.blk.fmtSeg.toNat (s.blk.decAcc.extractLsb' 0 32) ∧
      exec .hyphen s = .next { s with
        blk := { s.blk with
          fmtUuid := u
          fmtWide := s.blk.fmtWide || s.blk.decAcc.extractLsb' 32 32 != 0#32
          decAcc := 0#64, fmtSeg := s.blk.fmtSeg + 1#3, segSyms := n, fmtLong := l } }) ∧
    (s.blk.fmtSeg.toNat = 4 → exec .hyphen s = .next s)

/-- 42_group_formatter.md R175. -/
def Obligations.IgnoredCharactersOfFrombg : Prop :=
  ∀ (i : Instr) (c : Byte) (s : State), IsCharacter i c → c ≠ 0x20#8 → c ≠ 0x2D#8 →
    s.blk.st = .fromBgText → s.blk.fmtSeg.toNat = 4 → exec i s = .next s

/-- 42_group_formatter.md R177: in segments 0 to 3 a character is looked up as `DEC32` does. -/
def Obligations.LookupStepOfFrombg : Prop :=
  ∀ (i : Instr) (c : Byte) (s : State), IsCharacter i c → c ≠ 0x20#8 → c ≠ 0x2D#8 →
    s.blk.st = .fromBgText → s.blk.fmtSeg.toNat < 4 →
    (s.blk.decBad = true → exec i s = .next s) ∧
    (s.blk.decBad = false → ∀ d, alpha d = c → ∃ n, exec i s = .next { s with
      blk := { s.blk with
        decAcc := BitVec.ofNat 64 (32 * s.blk.decAcc.toNat + d.toNat), segSyms := n } }) ∧
    (s.blk.decBad = false → (∀ d, alpha d ≠ c) →
      exec i s = .next { s with blk := { s.blk with decBad := true, decBadc := c } })

/-- 42_group_formatter.md R178, under the default `RANGE_POLICY = MAG32` for which the rule is
written. -/
def Obligations.EotStepOfFrombg : Prop :=
  ∀ (c : Byte) (s : State), s.policy = .mag32 → s.blk.st = .fromBgText →
    ∃ u l, (if s.blk.fmtSeg.toNat < 4 then
          Committed s.blk.fmtUuid u s.blk.fmtSeg.toNat (s.blk.decAcc.extractLsb' 0 32)
        else u = s.blk.fmtUuid) ∧
      (let wide : Bool := s.blk.fmtWide ||
          (decide (s.blk.fmtSeg.toNat < 4) && s.blk.decAcc.extractLsb' 32 32 != 0#32)
       let status : BitVec 3 :=
          if s.blk.fmtSpace then 2#3 else if s.blk.fmtSeg.toNat < 3 then 2#3
          else if s.blk.decBad then 3#3 else if wide then 5#3 else 0#3
       (status ≠ 0#3 → exec (.eot c) s = .next { s with
          blk := { s.blk with
            fmtUuid := u, fmtWide := wide, fmtLong := l, rStatus := status, st := .rsp } }) ∧
       (status = 0#3 → ∃ buf, buf.toList = uuidText u ∧ exec (.eot c) s = .next { s with
          blk := { s.blk with
            fmtUuid := u, fmtWide := wide, fmtLong := l, rStatus := 0#3, st := .rsp
            outBuf := buf, outLen := 36#6 } }))

/-- 42_group_formatter.md R178 with R184, under each value of `RANGE_POLICY`: what `EOT` writes and
which status it chooses. Under `REFUSE` a text that passes steps 1 to 3 and has a wide accumulator
is refused, and one that fails a step is answered like any other. That `LEN7` is decided by
`fmtLong` and `segSyms` is the model's own (log 7). -/
def Obligations.EotUnderTheOtherPolicies : Prop :=
  ∀ (c : Byte) (s : State), s.blk.st = .fromBgText →
    ∃ u, (if s.blk.fmtSeg.toNat < 4 then
          Committed s.blk.fmtUuid u s.blk.fmtSeg.toNat (s.blk.decAcc.extractLsb' 0 32)
        else u = s.blk.fmtUuid) ∧
      (let wide : Bool := s.blk.fmtWide ||
          (decide (s.blk.fmtSeg.toNat < 4) && s.blk.decAcc.extractLsb' 32 32 != 0#32)
       let long : Bool := s.blk.fmtLong ||
          (decide (s.blk.fmtSeg.toNat < 4) && decide (7 < s.blk.segSyms))
       let status : Option (BitVec 3) :=
          if s.blk.fmtSpace then some 2#3 else if s.blk.fmtSeg.toNat < 3 then some 2#3
          else if s.blk.decBad then some 3#3
          else match s.policy with
            | .mag32 => some (if wide then 5#3 else 0#3)
            | .len7 => some (if long then 5#3 else 0#3)
            | .refuse => if wide then none else some 0#3
       (status = none → exec (.eot c) s = .refused .wideSegment) ∧
       (∀ e, status = some e → e ≠ 0#3 → exec (.eot c) s = .next { s with
          blk := { s.blk with
            fmtUuid := u, fmtWide := wide, fmtLong := long, rStatus := e, st := .rsp } }) ∧
       (status = some 0#3 → ∃ buf, buf.toList = uuidText u ∧ exec (.eot c) s = .next { s with
          blk := { s.blk with
            fmtUuid := u, fmtWide := wide, fmtLong := long, rStatus := 0#3, st := .rsp
            outBuf := buf, outLen := 36#6 } }))

/-- 42_group_formatter.md R184: what `LEN7` and `REFUSE` make of step 4 of R172, for a text that
passes steps 1 to 3. -/
def Obligations.OtherPoliciesOfFrombg : Prop :=
  ∀ (t s0 s1 s2 s3 : Text) (rest : List Text) (a0 a1 a2 a3 : BitVec 64),
    0x20#8 ∉ t → segments t = s0 :: s1 :: s2 :: s3 :: rest →
    dec s0 = .acc a0 → dec s1 = .acc a1 → dec s2 = .acc a2 → dec s3 = .acc a3 →
    let u := joinGroups (a0.extractLsb' 0 32) (a1.extractLsb' 0 32) (a2.extractLsb' 0 32)
      (a3.extractLsb' 0 32)
    let good : Answer := { Answer.okText (uuidText u) with uuid := some u }
    fromBgAnswer .len7 t =
      some (if s0.length ≤ 7 ∧ s1.length ≤ 7 ∧ s2.length ≤ 7 ∧ s3.length ≤ 7 then good
        else .raise .valueOutOfRange) ∧
    fromBgAnswer .refuse t =
      (if a0.toNat < 2 ^ 32 ∧ a1.toNat < 2 ^ 32 ∧ a2.toNat < 2 ^ 32 ∧ a3.toNat < 2 ^ 32
        then some good else none)

/-- 40_base32_encoder.md R105, for a value that is not finished by this digit; the rest of the step
is R106. `Owned` is duty H3 (70_reset_and_hazards.md R255, R256). -/
def Obligations.DigitStepOfTheEncoder : Prop :=
  ∀ s : State, s.host.rst = false → Owned s → s.blk.st = .encIter → s.blk.encLen.toNat < 7 →
    s.blk.encSh >>> 5 ≠ 0#32 →
    step s = .next { s with
      blk := { s.blk with
        encSym := #v[alpha (s.blk.encSh.extractLsb' 0 5), s.blk.encSym[0], s.blk.encSym[1],
          s.blk.encSym[2], s.blk.encSym[3], s.blk.encSym[4], s.blk.encSym[5]]
        encLen := s.blk.encLen + 1#3, encSh := s.blk.encSh >>> 5 }
      host := passed s.host }

/-- 40_base32_encoder.md R106, both branches. The premises are the ranges that 10_state.md R35, R38
and R42 give `enc_len`, `fmt_seg` and `out_len`; `StepKeepsTheInvariant` shows that no run leaves
them. `Owned` is duty H3 (70_reset_and_hazards.md R255, R256). -/
def Obligations.FinishOfTheEncoder : Prop :=
  ∀ s : State, s.host.rst = false → Owned s → s.blk.st = .encIter → s.blk.encLen.toNat < 7 →
    s.blk.encSh >>> 5 = 0#32 → s.blk.fmtSeg.toNat ≤ 3 →
    s.blk.outLen.toNat + s.blk.encLen.toNat + 2 ≤ 36 →
    let n := s.blk.encLen.toNat + 1
    let syms : Vector Byte 7 :=
      #v[alpha (s.blk.encSh.extractLsb' 0 5), s.blk.encSym[0], s.blk.encSym[1],
        s.blk.encSym[2], s.blk.encSym[3], s.blk.encSym[4], s.blk.encSym[5]]
    (s.blk.opR = 1#3 ∨ s.blk.fmtSeg = 3#3 → ∃ buf,
      Written s.blk.outBuf buf s.blk.outLen.toNat (syms.toList.take n) ∧
      step s = .next { s with
        blk := { s.blk with
          encSym := syms, encLen := s.blk.encLen + 1#3, encSh := 0#32
          outBuf := buf, outLen := s.blk.outLen + BitVec.ofNat 6 n
          rStatus := 0#3, st := .rsp }
        host := passed s.host }) ∧
    (s.blk.opR ≠ 1#3 → s.blk.fmtSeg ≠ 3#3 → ∃ buf,
      Written s.blk.outBuf buf s.blk.outLen.toNat (syms.toList.take n ++ [0x2D#8]) ∧
      step s = .next { s with
        blk := { s.blk with
          encSym := syms, encLen := 0#3
          encSh := group s.blk.fmtUuid (s.blk.fmtSeg.toNat + 1)
          fmtSeg := s.blk.fmtSeg + 1#3
          outBuf := buf, outLen := s.blk.outLen + BitVec.ofNat 6 (n + 1) }
        host := passed s.host })

/-- 70_reset_and_hazards.md R247: whatever the host does short of a reset or of text beats that no
command owns (R256), `ENC_ITER` is left after at most 7 steps for `ENC32` and 28 for `TOBG`. -/
def Obligations.EncoderNeedsNothingFromTheHost : Prop :=
  ∀ s : State, s.inv → s.blk.st = .encIter → s.host.noReset →
    (s.host.tinQ = [] ∨ SomeText s.host.cmdQ) →
    ∃ k t, k ≤ (if s.blk.opR = 1#3 then 7 else 28) ∧ runs k s = .next t ∧ t.blk.st = .rsp

/-- 70_reset_and_hazards.md R240, R245, R248, R249: when the word on the port of a ready channel
decodes to `i`, the step is `exec i` on the state whose host side has passed the edge and given up
that beat. `Owned` is duty H3 (R255, R256); in the text states it holds. -/
def Obligations.StepRunsTheDecodedInstruction : Prop :=
  ∀ (s : State) (i : Instr), s.host.rst = false →
    (∀ w, Owned s → s.blk.st = .idle → s.host.cmdPort = some w → decode (.cmd w) = i →
      step s = exec i { s with host := passedCmd s.host }) ∧
    (∀ w, (s.blk.st = .decText ∨ s.blk.st = .fromBgText) → s.host.tinPort = some w →
      decode (.beat w) = i → step s = exec i { s with host := passedTin s.host })

/-- The model's own placing of a word (log 5): the very next step executes exactly that instruction,
in a state that can take it, and the queues are afterwards what they were. -/
def Obligations.FetchWordRunsNext : Prop :=
  ∀ (s : State) (nbits w : Nat) (i : Instr), decodeTableWord nbits w = some i →
    ∃ r : State, step (s.withFetchWord nbits w) = exec i r ∧
      r.blk = (s.withFetchWord nbits w).blk ∧ r.policy = s.policy ∧ r.resets = s.resets ∧
      r.host.cmdQ = s.host.cmdQ ∧ r.host.tinQ = s.host.tinQ ∧
      (IsCommand i → r.blk.st = .idle) ∧
      (IsBeat i → r.blk.st = .decText ∨ r.blk.st = .fromBgText)

/-- 70_reset_and_hazards.md R246; and in every sequencer state, a step without reset is refused as
R256 asks exactly when a text beat is on offer that no command owns (R255 H3, R258; how the model
reads "owns" is log 6). -/
def Obligations.IdleRestsAndStrayTextIsRefused : Prop :=
  ∀ s : State, s.host.rst = false →
    (Owned s → s.blk.st = .idle → s.host.cmdPort = none →
      step s = .next { s with host := passed s.host }) ∧
    (step s = .refused .strayText ↔ ¬ Owned s)

/-- 10_state.md R47 and 70_reset_and_hazards.md R230: an edge with `rst = 1` goes to `IDLE` whatever
the block was doing, with the outputs of `IDLE`; the abandoned command delivers nothing (R231).
Nothing is said of the other registers. That the host's queues are dropped and replaced by the words
of the move is the model's reading of R231 and H6 (log 18). -/
def Obligations.ResetEdgeGoesToIdle : Prop :=
  ∀ (s : State) (cs : List CmdWord) (bs : List BeatWord) (ms : List HostMove),
    s.host.moves = .reset cs bs :: ms →
    ∃ t, step s = .next t ∧ t.blk.st = .idle ∧
      t.blk.cmdReady = true ∧ t.blk.tinReady = false ∧ t.blk.rspValid = false ∧
      t.blk.toutValid = false ∧
      t.host = { s.host with
        moves := ms, cmdQ := cs, cmdHeld := false, tinQ := bs, tinHeld := false }

/-- 70_reset_and_hazards.md R230: after reset the block waits for a command, and 00_scope.md R4: the
default of `RANGE_POLICY`. That the host of `State.reset` has nothing to send (`cmdQ = []`), so that
every step of it rests, is the model's choice (log 5); so is the 0 that the other registers hold
(log 1). -/
def Obligations.AfterResetTheBlockWaits : Prop :=
  State.reset.blk.st = .idle ∧ State.reset.blk.cmdReady = true ∧
  State.reset.host.cmdQ = [] ∧ State.reset.policy = .mag32 ∧ step State.reset = .next State.reset

/-- 70_reset_and_hazards.md R250, for a host that keeps duty H3 (R255, R256). -/
def Obligations.ResponseStep : Prop :=
  ∀ s : State, s.host.rst = false → Owned s → s.blk.st = .rsp →
    (s.host.rspReady = false → step s = .next { s with host := passed s.host }) ∧
    (s.host.rspReady = true → step s = .next { s with
      blk := { s.blk with outPos := 0#6, st := .txt }
      host := { passed s.host with responses := s.host.responses ++ [s.blk.response] } })

/-- 70_reset_and_hazards.md R251, for the positions that 10_state.md R42 gives `out_pos` and
`out_len` and a host that keeps duty H3 (R255, R256). -/
def Obligations.TextOutputStep : Prop :=
  ∀ s : State, s.host.rst = false → Owned s → s.blk.st = .txt →
    (s.host.toutReady = false → step s = .next { s with host := passed s.host }) ∧
    (∀ h : s.blk.outPos.toNat < 36, s.host.toutReady = true →
      s.blk.outPos.toNat < s.blk.outLen.toNat →
      step s = .next { s with
        blk := { s.blk with outPos := s.blk.outPos + 1#6 }
        host := { passed s.host with
          texts := s.host.texts ++ [.char (s.blk.outBuf[s.blk.outPos.toNat])] } }) ∧
    (s.host.toutReady = true → s.blk.outPos = s.blk.outLen →
      step s = .next { s with
        blk := { s.blk with st := .idle }
        host := { passed s.host with texts := s.host.texts ++ [.eot] } })

/-- 70_reset_and_hazards.md R253, all its rows. -/
def Obligations.TransitionsFollowTheSummary : Prop :=
  ∀ s t : State, step s = .next t → t.blk.st = nextSeqState s

/-- 70_reset_and_hazards.md R241, both directions. -/
def Obligations.OffersAreHeld : Prop :=
  ∀ s t : State, s.host.rst = false → step s = .next t →
    (∀ w, s.host.cmdPort = some w → s.blk.cmdReady = false → t.host.cmdPort = some w) ∧
    (∀ w, s.host.tinPort = some w → s.blk.tinReady = false → t.host.tinPort = some w) ∧
    (s.blk.rspValid = true → s.host.rspReady = false →
      t.blk.rspValid = true ∧ t.blk.response = s.blk.response) ∧
    (s.blk.toutValid = true → s.host.toutReady = false →
      t.blk.toutValid = true ∧ t.blk.toutEot = s.blk.toutEot ∧ t.blk.toutChar = s.blk.toutChar)

/-- The response table of 30_encoding.md R74 but for its text row: which field has a value, and the
lengths. -/
def Obligations.ResponseFieldsHaveTheirValues : Prop :=
  ∀ b : Block, b.inv → b.st = .rsp →
    (b.response.char.isSome = true ↔ b.rStatus = 3#3) ∧
    (b.response.acc.isSome = true ↔ b.opR = 2#3 ∧ b.rStatus = 0#3) ∧
    (∀ a, b.response.acc = some a → b.response.hexvalid = some (decide (a.toNat < 2 ^ 32)) ∧
      b.response.len.toNat = if a.toNat < 2 ^ 32 then 8 else 0) ∧
    (b.response.hexvalid.isSome = true ↔ b.opR = 2#3 ∧ b.rStatus = 0#3) ∧
    (b.response.uuid.isSome = true ↔ b.opR = 4#3 ∧ b.rStatus = 0#3) ∧
    (b.rStatus = 0#3 → b.opR = 1#3 → 1 ≤ b.response.len.toNat ∧ b.response.len.toNat ≤ 7) ∧
    (b.rStatus = 0#3 → b.opR = 3#3 → 7 ≤ b.response.len.toNat ∧ b.response.len.toNat ≤ 31) ∧
    (b.rStatus = 0#3 → b.opR = 4#3 → b.response.len.toNat = 36) ∧
    (b.rStatus ≠ 0#3 → b.response.len = 0#6)

/-- The invariant of the registers holds after reset (10_state.md R47, R35, R38, R42), and the host
of `State.reset` keeps duties H2, H3 and H6 of 70_reset_and_hazards.md R255. The second rests on the
model's choice of a reset host that has nothing to send (log 5). -/
def Obligations.ResetMeetsTheInvariant : Prop :=
  State.reset.inv ∧ State.reset.dutiful

/-- The invariant that every step keeps: `enc_len`, `fmt_seg`, `out_len` and `out_pos` stay in the
ranges of 10_state.md R35, R38 and R42, and an offered response has a status its operation can give
and a length that fits it (60_exceptions.md R209; 30_encoding.md R74). -/
def Obligations.StepKeepsTheInvariant : Prop :=
  ∀ s t : State, s.inv → step s = .next t → t.inv

/-- No counter overflows and no text passes its registers (00_scope.md R6; 10_state.md R35, R42). -/
def Obligations.InvariantStatesNeverFault : Prop :=
  ∀ (s : State) (f : Fault), s.inv → step s ≠ .fault f

/-- Under duties H2, H3 and H6 of 70_reset_and_hazards.md R255 a step always answers a next state,
in which the duties and the parameter are kept: nothing is refused (`REFUSE` apart, R184). -/
def Obligations.DutifulRunsGoOn : Prop :=
  ∀ s : State, s.inv → s.dutiful → s.policy ≠ .refuse →
    ∃ t, step s = .next t ∧ t.dutiful ∧ t.policy = s.policy

/-- 60_exceptions.md R201: the block never produces code 1; nor code 7 (R200). -/
def Obligations.InvalidLengthIsNeverProduced : Prop :=
  ∀ s t : State, s.inv → step s = .next t →
    ∀ r ∈ t.host.responses, r ∈ s.host.responses ∨ (r.status ≠ 1#3 ∧ r.status ≠ 7#3)

/-- What the host has received stays, and a step adds at most one beat to it; `RANGE_POLICY` is
written by no step (10_state.md R46). -/
def Obligations.ReceivedBeatsStay : Prop :=
  ∀ s t : State, step s = .next t →
    t.policy = s.policy ∧
    (t.host.responses = s.host.responses ∨ ∃ r, t.host.responses = s.host.responses ++ [r]) ∧
    (t.host.texts = s.host.texts ∨ ∃ o, t.host.texts = s.host.texts ++ [o])

/-- 40_base32_encoder.md R102: length and characters of `enc32(v)`. -/
def Obligations.EncodedTextClosedForm : Prop :=
  ∀ v : BitVec 32, (enc32 v).length = encLength v ∧
    (∀ j, j < encLength v → (enc32 v)[j]? = some (alpha (digit v (encLength v - 1 - j)))) ∧
    (v ≠ 0#32 → digit v (encLength v - 1) ≠ 0#5 ∧ ∀ k, encLength v ≤ k → digit v k = 0#5)

/-- 40_base32_encoder.md R101, of the digits that the unrolled encoder slices out (`digitSlice`):
their values, their weights, and that digit `k` is the one `encLoop` takes in iteration `k + 1`,
whose value is by then shifted right by `5k`. -/
def Obligations.DigitsRebuildTheValue : Prop :=
  ∀ v : BitVec 32,
    v.toNat = (digitSlice v 0).toNat + 32 * (digitSlice v 1).toNat +
      32 ^ 2 * (digitSlice v 2).toNat + 32 ^ 3 * (digitSlice v 3).toNat +
      32 ^ 4 * (digitSlice v 4).toNat + 32 ^ 5 * (digitSlice v 5).toNat +
      32 ^ 6 * (digitSlice v 6).toNat ∧
    (digitSlice v 6).toNat ≤ 3 ∧
    (∀ k, k ≤ 5 → digitSlice v k = v.extractLsb' (5 * k) 5) ∧
    digitSlice v 6 = 0#3 ++ v.extractLsb' 30 2 ∧
    (∀ k, (digitSlice v k).toNat = ((v >>> (5 * k)) &&& 31#32).toNat) ∧
    (∀ (n k : Nat) (t : Text), (v >>> (5 * k)) >>> 5 ≠ 0#32 →
      encLoop (n + 1) (v >>> (5 * k)) t =
        encLoop n (v >>> (5 * (k + 1))) (alpha (digitSlice v k) :: t)) ∧
    (∀ (n k : Nat) (t : Text), (v >>> (5 * k)) >>> 5 = 0#32 →
      encLoop (n + 1) (v >>> (5 * k)) t = alpha (digitSlice v k) :: t)

/-- 40_base32_encoder.md R107: the pipeline form and the loop of R100 are the same function. -/
def Obligations.UnrolledEncoderIsTheLoop : Prop :=
  ∀ v : BitVec 32, enc32Unrolled v = enc32 v

/-- 30_encoding.md R80: what `ENC32` produces. -/
def Obligations.EncodedTextIsCanonical : Prop :=
  ∀ v : BitVec 32, 1 ≤ (enc32 v).length ∧ (enc32 v).length ≤ 7 ∧
    (∀ c ∈ enc32 v, charClass c = .sym) ∧
    ((enc32 v).head? = some 0x30#8 → enc32 v = [0x30#8]) ∧ enc32 0#32 = [0x30#8] ∧
    ((enc32 v).length = 7 →
      (enc32 v).head? = some 0x31#8 ∨ (enc32 v).head? = some 0x32#8 ∨
      (enc32 v).head? = some 0x33#8)

/-- 40_base32_encoder.md R111 (d), (e); 41_base32_decoder.md R141 (a). -/
def Obligations.DecodingInvertsEncoding : Prop :=
  (∀ v : BitVec 32, dec (enc32 v) = .acc (v.zeroExtend 64)) ∧
  (∀ v w : BitVec 32, enc32 v = enc32 w → v = w)

/-- 41_base32_decoder.md R132: closed form of the accumulator and which lengths can lose bits. -/
def Obligations.DecodeIsPositionalModulo : Prop :=
  (∀ ds : List (BitVec 5),
    dec (ds.map alpha) = .acc (BitVec.ofNat 64 (positional ds % 2 ^ 64))) ∧
  (∀ ds : List (BitVec 5), ds.length ≤ 12 → positional ds < 2 ^ 64) ∧
  (∀ (d : BitVec 5) (ds : List (BitVec 5)), ds.length = 12 →
    (positional (d :: ds) < 2 ^ 64 ↔ d.toNat < 16)) ∧
  (∀ (front ds : List (BitVec 5)) (d : BitVec 5), ds.length = 12 →
    dec ((front ++ d :: ds).map alpha) =
      .acc (BitVec.ofNat 64 (positional (BitVec.ofNat 5 (d.toNat % 16) :: ds))))

/-- 41_base32_decoder.md R130, R131, R137 and R140: when `dec` fails and with which character, that
any number of symbols decodes, and the empty text. -/
def Obligations.DecodeStopsAtTheFirstForeignCharacter : Prop :=
  (∀ (t : Text) (c : Byte), dec t = .bad c ↔
    ∃ front back, t = front ++ c :: back ∧ (∀ x ∈ front, charClass x = .sym) ∧
      charClass c ≠ .sym) ∧
  (∀ t : Text, (∃ a, dec t = .acc a) ↔ ∀ x ∈ t, charClass x = .sym) ∧
  dec [] = .acc 0#64 ∧
  decAnswer [] = { Answer.okText [0x30#8, 0x30#8, 0x30#8, 0x30#8, 0x30#8, 0x30#8, 0x30#8, 0x30#8]
    with acc := some 0#64, hexvalid := some true }

/-- 42_group_formatter.md R161: group `g` is hex digits `8g` to `8g+7` of the UUID, and the groups
make the value. -/
def Obligations.GroupsAreEightHexDigits : Prop :=
  ∀ u : BitVec 128,
    (∀ g k : Nat, g < 4 → k < 8 →
      (group u g).extractLsb' (28 - 4 * k) 4 = hexDigit u (8 * g + k)) ∧
    group u 0 ++ group u 1 ++ group u 2 ++ group u 3 = u

/-- 30_encoding.md R86: the canonical UUID text. -/
def Obligations.UuidTextLayout : Prop :=
  ∀ u : BitVec 128, (uuidText u).length = 36 ∧
    (∀ p ∈ [8, 13, 18, 23], (uuidText u)[p]? = some 0x2D#8) ∧
    (∀ k, k < 32 → (uuidText u)[k + hyphensBefore k]? = some (hexdig (hexDigit u k))) ∧
    (∀ n : BitVec 4, hexdig n =
      if n.toNat < 10 then BitVec.ofNat 8 (0x30 + n.toNat) else BitVec.ofNat 8 (0x37 + n.toNat))

/-- 30_encoding.md R81; 42_group_formatter.md R182 (the `TOBG` half). -/
def Obligations.TobgTextShape : Prop :=
  ∀ u : BitVec 128,
    segments (tobgText u) =
      [enc32 (group u 0), enc32 (group u 1), enc32 (group u 2), enc32 (group u 3)] ∧
    (∀ g ∈ segments (tobgText u), g ≠ []) ∧
    (∀ c ∈ tobgText u, charClass c = .sym ∨ c = 0x2D#8) ∧
    7 ≤ (tobgText u).length ∧ (tobgText u).length ≤ 31

/-- 42_group_formatter.md R180, under every `RANGE_POLICY` (92_eei_decisions.md, note on the open
parameter). -/
def Obligations.RoundTripOfUuids : Prop :=
  ∀ (p : RangePolicy) (u : BitVec 128), fromBgAnswer p (tobgText u) =
    some { Answer.okText (uuidText u) with uuid := some u }

/-- 42_group_formatter.md R181. -/
def Obligations.TobgIsInjective : Prop :=
  ∀ u v : BitVec 128, u ≠ v → tobgText u ≠ tobgText v

/-- 30_encoding.md R82: exactly which texts are answered `OK`. -/
def Obligations.TextsAcceptedByFrombg : Prop :=
  ∀ t : Text, (∃ a, fromBgAnswer .mag32 t = some a ∧ a.status = .ok) ↔
    0x20#8 ∉ t ∧ 3 ≤ t.count 0x2D#8 ∧ (∀ c ∈ checkedChars t, charClass c = .sym) ∧
    (∀ g ∈ (segments t).take 4, ∀ a, dec g = .acc a → a.toNat < 2 ^ 32)

/-- 60_exceptions.md R210, the whole list for `FROMBG`, `DEC32` and reserved encodings. -/
def Obligations.StatusPriority : Prop :=
  (∀ (p : RangePolicy) (w : CmdWord) (t : Text),
    (cmdNull w = 1#1 → cmdOp w = 2#3 ∨ cmdOp w = 4#3 →
      answerTo p w t = some (.raise .nullInput)) ∧
    (cmdOp w ∈ [0#3, 5#3, 6#3, 7#3] ∨ (cmdNull w = 1#1 ∧ (cmdOp w = 1#3 ∨ cmdOp w = 3#3)) →
      answerTo p w t = some (.raise .illegalCommand))) ∧
  (∀ t : Text,
    (0x20#8 ∈ t → fromBgAnswer .mag32 t = some (.raise .invalidFormat)) ∧
    (t.count 0x2D#8 < 3 → fromBgAnswer .mag32 t = some (.raise .invalidFormat)) ∧
    (0x20#8 ∉ t → 3 ≤ t.count 0x2D#8 → ∀ front c back, checkedChars t = front ++ c :: back →
      (∀ x ∈ front, charClass x = .sym) → charClass c ≠ .sym →
      fromBgAnswer .mag32 t = some (.raiseChar c)) ∧
    (0x20#8 ∉ t → 3 ≤ t.count 0x2D#8 → (∀ x ∈ checkedChars t, charClass x = .sym) →
      (∃ g ∈ (segments t).take 4, ∃ a, dec g = .acc a ∧ 2 ^ 32 ≤ a.toNat) →
      fromBgAnswer .mag32 t = some (.raise .valueOutOfRange))) ∧
  (∀ (t : Text) (c : Byte), dec t = .bad c → decAnswer t = .raiseChar c)

/-- 42_group_formatter.md R185, under every `RANGE_POLICY`: what follows the fourth hyphen does not
matter, except that a space in it gives `InvalidFormat`. -/
def Obligations.TrailingSegmentsAreIgnored : Prop :=
  ∀ (p : RangePolicy) (t x : Text), 3 ≤ t.count 0x2D#8 →
    (0x20#8 ∉ x → fromBgAnswer p (t ++ 0x2D#8 :: x) = fromBgAnswer p t) ∧
    (0x20#8 ∈ x → fromBgAnswer p (t ++ 0x2D#8 :: x) = some (.raise .invalidFormat))

/-- 70_reset_and_hazards.md R252: for every command and every input text, and for every behaviour of
the host that this model can express (log 8: any delays of its `valid` and `ready`, words offered
early; R255), the step level delivers the response of the operation level, its text and one EOT
beat, and is back in `IDLE` with the later commands and texts untouched. The host resets at no
coming edge, and keeps duty H3: text beats after those of this command belong to a later command. -/
def Obligations.StepLevelRefinesOperationLevel : Prop :=
  ∀ (s : State) (w : CmdWord) (t : Text) (e : Byte) (cmds : List CmdWord) (texts : List BeatWord),
    s.blk.st = .idle → s.host.noReset → s.host.cmdQ = w :: cmds →
    s.host.tinQ = (if takesText w then textBeats e t else []) ++ texts →
    (texts = [] ∨ SomeText cmds) →
    match answerTo s.policy w t with
    | some a => ∃ k r, runs k s = .next r ∧ r.blk.st = .idle ∧ r.policy = s.policy ∧
        r.host.noReset ∧ r.host.cmdQ = cmds ∧ r.host.tinQ = texts ∧
        r.host.responses = s.host.responses ++ [a.response] ∧
        r.host.texts = s.host.texts ++ a.beats
    | none => ∃ k, runs k s = .refused .wideSegment

/-- A program is answered command by command, whatever the pace of the host: 20_memory.md R61,
70_reset_and_hazards.md R260 and R262. How a program is put on the host's side (`State.load`) is the
model's choice (log 5). -/
def Obligations.WholeProgramsAreAnswered : Prop :=
  ∀ (s : State) (program : List Command), s.blk.st = .idle → s.host.noReset →
    s.policy ≠ .refuse →
    ∃ (answers : List Answer) (k : Nat) (r : State),
      program.map (fun c => answerTo s.policy c.word c.text) = answers.map some ∧
      runs k (s.load program) = .next r ∧ r.blk.st = .idle ∧
      r.host.cmdQ = [] ∧ r.host.tinQ = [] ∧
      r.host.responses = s.host.responses ++ answers.map Answer.response ∧
      r.host.texts = s.host.texts ++ answers.flatMap Answer.beats

/-- 10_state.md R20 and R47: what the registers hold when the block is in `IDLE`, be it left by
earlier commands or by reset, never shows: two machines in `IDLE` with the same host look the same
from outside for ever. -/
def Obligations.NothingIsCarriedOver : Prop :=
  ∀ s r : State, s.blk.st = .idle → r.blk.st = .idle → s.host = r.host → s.policy = r.policy →
    ∀ k, seen (runs k s) = seen (runs k r)
end

