-- ==== Sys2Proof/Laws/State.lean ====
section
/-! SUPPORT. One lemma per field per named update of the registers and of the host's side, so that no
later proof unfolds a record update. -/

namespace Sys2Proof.Machine

/-! ## Updates of the registers -/

@[simp] theorem Block.beginCommand_st (op : BitVec 3) (b : Block) : (b.beginCommand op).st = b.st := rfl
@[simp] theorem Block.beginCommand_opR (op : BitVec 3) (b : Block) : (b.beginCommand op).opR = op := rfl
@[simp] theorem Block.beginCommand_encSh (op : BitVec 3) (b : Block) : (b.beginCommand op).encSh = b.encSh := rfl
@[simp] theorem Block.beginCommand_encSym (op : BitVec 3) (b : Block) : (b.beginCommand op).encSym = b.encSym := rfl
@[simp] theorem Block.beginCommand_encLen (op : BitVec 3) (b : Block) : (b.beginCommand op).encLen = b.encLen := rfl
@[simp] theorem Block.beginCommand_decAcc (op : BitVec 3) (b : Block) : (b.beginCommand op).decAcc = 0#64 := rfl
@[simp] theorem Block.beginCommand_decBad (op : BitVec 3) (b : Block) : (b.beginCommand op).decBad = false := rfl
@[simp] theorem Block.beginCommand_decBadc (op : BitVec 3) (b : Block) : (b.beginCommand op).decBadc = b.decBadc := rfl
@[simp] theorem Block.beginCommand_fmtUuid (op : BitVec 3) (b : Block) : (b.beginCommand op).fmtUuid = b.fmtUuid := rfl
@[simp] theorem Block.beginCommand_fmtSeg (op : BitVec 3) (b : Block) : (b.beginCommand op).fmtSeg = 0#3 := rfl
@[simp] theorem Block.beginCommand_fmtSpace (op : BitVec 3) (b : Block) : (b.beginCommand op).fmtSpace = false := rfl
@[simp] theorem Block.beginCommand_fmtWide (op : BitVec 3) (b : Block) : (b.beginCommand op).fmtWide = false := rfl
@[simp] theorem Block.beginCommand_outBuf (op : BitVec 3) (b : Block) : (b.beginCommand op).outBuf = b.outBuf := rfl
@[simp] theorem Block.beginCommand_outLen (op : BitVec 3) (b : Block) : (b.beginCommand op).outLen = 0#6 := rfl
@[simp] theorem Block.beginCommand_outPos (op : BitVec 3) (b : Block) : (b.beginCommand op).outPos = b.outPos := rfl
@[simp] theorem Block.beginCommand_rStatus (op : BitVec 3) (b : Block) : (b.beginCommand op).rStatus = b.rStatus := rfl
@[simp] theorem Block.beginCommand_rHexvalid (op : BitVec 3) (b : Block) : (b.beginCommand op).rHexvalid = b.rHexvalid := rfl
@[simp] theorem Block.beginCommand_segSyms (op : BitVec 3) (b : Block) : (b.beginCommand op).segSyms = 0 := rfl
@[simp] theorem Block.beginCommand_fmtLong (op : BitVec 3) (b : Block) : (b.beginCommand op).fmtLong = false := rfl

@[simp] theorem Block.answer_st (e : Status) (b : Block) : (b.answer e).st = .rsp := rfl
@[simp] theorem Block.answer_opR (e : Status) (b : Block) : (b.answer e).opR = b.opR := rfl
@[simp] theorem Block.answer_encSh (e : Status) (b : Block) : (b.answer e).encSh = b.encSh := rfl
@[simp] theorem Block.answer_encSym (e : Status) (b : Block) : (b.answer e).encSym = b.encSym := rfl
@[simp] theorem Block.answer_encLen (e : Status) (b : Block) : (b.answer e).encLen = b.encLen := rfl
@[simp] theorem Block.answer_decAcc (e : Status) (b : Block) : (b.answer e).decAcc = b.decAcc := rfl
@[simp] theorem Block.answer_decBad (e : Status) (b : Block) : (b.answer e).decBad = b.decBad := rfl
@[simp] theorem Block.answer_decBadc (e : Status) (b : Block) : (b.answer e).decBadc = b.decBadc := rfl
@[simp] theorem Block.answer_fmtUuid (e : Status) (b : Block) : (b.answer e).fmtUuid = b.fmtUuid := rfl
@[simp] theorem Block.answer_fmtSeg (e : Status) (b : Block) : (b.answer e).fmtSeg = b.fmtSeg := rfl
@[simp] theorem Block.answer_fmtSpace (e : Status) (b : Block) : (b.answer e).fmtSpace = b.fmtSpace := rfl
@[simp] theorem Block.answer_fmtWide (e : Status) (b : Block) : (b.answer e).fmtWide = b.fmtWide := rfl
@[simp] theorem Block.answer_outBuf (e : Status) (b : Block) : (b.answer e).outBuf = b.outBuf := rfl
@[simp] theorem Block.answer_outLen (e : Status) (b : Block) : (b.answer e).outLen = b.outLen := rfl
@[simp] theorem Block.answer_outPos (e : Status) (b : Block) : (b.answer e).outPos = b.outPos := rfl
@[simp] theorem Block.answer_rStatus (e : Status) (b : Block) : (b.answer e).rStatus = e.code := rfl
@[simp] theorem Block.answer_rHexvalid (e : Status) (b : Block) : (b.answer e).rHexvalid = b.rHexvalid := rfl
@[simp] theorem Block.answer_segSyms (e : Status) (b : Block) : (b.answer e).segSyms = b.segSyms := rfl
@[simp] theorem Block.answer_fmtLong (e : Status) (b : Block) : (b.answer e).fmtLong = b.fmtLong := rfl

@[simp] theorem Block.loadEncoder_st (v : BitVec 32) (b : Block) : (b.loadEncoder v).st = b.st := rfl
@[simp] theorem Block.loadEncoder_opR (v : BitVec 32) (b : Block) : (b.loadEncoder v).opR = b.opR := rfl
@[simp] theorem Block.loadEncoder_encSh (v : BitVec 32) (b : Block) : (b.loadEncoder v).encSh = v := rfl
@[simp] theorem Block.loadEncoder_encSym (v : BitVec 32) (b : Block) : (b.loadEncoder v).encSym = b.encSym := rfl
@[simp] theorem Block.loadEncoder_encLen (v : BitVec 32) (b : Block) : (b.loadEncoder v).encLen = 0#3 := rfl
@[simp] theorem Block.loadEncoder_decAcc (v : BitVec 32) (b : Block) : (b.loadEncoder v).decAcc = b.decAcc := rfl
@[simp] theorem Block.loadEncoder_decBad (v : BitVec 32) (b : Block) : (b.loadEncoder v).decBad = b.decBad := rfl
@[simp] theorem Block.loadEncoder_decBadc (v : BitVec 32) (b : Block) : (b.loadEncoder v).decBadc = b.decBadc := rfl
@[simp] theorem Block.loadEncoder_fmtUuid (v : BitVec 32) (b : Block) : (b.loadEncoder v).fmtUuid = b.fmtUuid := rfl
@[simp] theorem Block.loadEncoder_fmtSeg (v : BitVec 32) (b : Block) : (b.loadEncoder v).fmtSeg = b.fmtSeg := rfl
@[simp] theorem Block.loadEncoder_fmtSpace (v : BitVec 32) (b : Block) : (b.loadEncoder v).fmtSpace = b.fmtSpace := rfl
@[simp] theorem Block.loadEncoder_fmtWide (v : BitVec 32) (b : Block) : (b.loadEncoder v).fmtWide = b.fmtWide := rfl
@[simp] theorem Block.loadEncoder_outBuf (v : BitVec 32) (b : Block) : (b.loadEncoder v).outBuf = b.outBuf := rfl
@[simp] theorem Block.loadEncoder_outLen (v : BitVec 32) (b : Block) : (b.loadEncoder v).outLen = b.outLen := rfl
@[simp] theorem Block.loadEncoder_outPos (v : BitVec 32) (b : Block) : (b.loadEncoder v).outPos = b.outPos := rfl
@[simp] theorem Block.loadEncoder_rStatus (v : BitVec 32) (b : Block) : (b.loadEncoder v).rStatus = b.rStatus := rfl
@[simp] theorem Block.loadEncoder_rHexvalid (v : BitVec 32) (b : Block) : (b.loadEncoder v).rHexvalid = b.rHexvalid := rfl
@[simp] theorem Block.loadEncoder_segSyms (v : BitVec 32) (b : Block) : (b.loadEncoder v).segSyms = b.segSyms := rfl
@[simp] theorem Block.loadEncoder_fmtLong (v : BitVec 32) (b : Block) : (b.loadEncoder v).fmtLong = b.fmtLong := rfl

@[simp] theorem Block.appendText_st (t : Text) (b : Block) : (b.appendText t).st = b.st := rfl
@[simp] theorem Block.appendText_opR (t : Text) (b : Block) : (b.appendText t).opR = b.opR := rfl
@[simp] theorem Block.appendText_encSh (t : Text) (b : Block) : (b.appendText t).encSh = b.encSh := rfl
@[simp] theorem Block.appendText_encSym (t : Text) (b : Block) : (b.appendText t).encSym = b.encSym := rfl
@[simp] theorem Block.appendText_encLen (t : Text) (b : Block) : (b.appendText t).encLen = b.encLen := rfl
@[simp] theorem Block.appendText_decAcc (t : Text) (b : Block) : (b.appendText t).decAcc = b.decAcc := rfl
@[simp] theorem Block.appendText_decBad (t : Text) (b : Block) : (b.appendText t).decBad = b.decBad := rfl
@[simp] theorem Block.appendText_decBadc (t : Text) (b : Block) : (b.appendText t).decBadc = b.decBadc := rfl
@[simp] theorem Block.appendText_fmtUuid (t : Text) (b : Block) : (b.appendText t).fmtUuid = b.fmtUuid := rfl
@[simp] theorem Block.appendText_fmtSeg (t : Text) (b : Block) : (b.appendText t).fmtSeg = b.fmtSeg := rfl
@[simp] theorem Block.appendText_fmtSpace (t : Text) (b : Block) : (b.appendText t).fmtSpace = b.fmtSpace := rfl
@[simp] theorem Block.appendText_fmtWide (t : Text) (b : Block) : (b.appendText t).fmtWide = b.fmtWide := rfl
@[simp] theorem Block.appendText_outBuf (t : Text) (b : Block) : (b.appendText t).outBuf = writeText b.outBuf b.outLen.toNat t := rfl
@[simp] theorem Block.appendText_outLen (t : Text) (b : Block) : (b.appendText t).outLen = b.outLen + BitVec.ofNat 6 t.length := rfl
@[simp] theorem Block.appendText_outPos (t : Text) (b : Block) : (b.appendText t).outPos = b.outPos := rfl
@[simp] theorem Block.appendText_rStatus (t : Text) (b : Block) : (b.appendText t).rStatus = b.rStatus := rfl
@[simp] theorem Block.appendText_rHexvalid (t : Text) (b : Block) : (b.appendText t).rHexvalid = b.rHexvalid := rfl
@[simp] theorem Block.appendText_segSyms (t : Text) (b : Block) : (b.appendText t).segSyms = b.segSyms := rfl
@[simp] theorem Block.appendText_fmtLong (t : Text) (b : Block) : (b.appendText t).fmtLong = b.fmtLong := rfl

@[simp] theorem Block.setText_st (t : Text) (b : Block) : (b.setText t).st = b.st := rfl
@[simp] theorem Block.setText_opR (t : Text) (b : Block) : (b.setText t).opR = b.opR := rfl
@[simp] theorem Block.setText_encSh (t : Text) (b : Block) : (b.setText t).encSh = b.encSh := rfl
@[simp] theorem Block.setText_encSym (t : Text) (b : Block) : (b.setText t).encSym = b.encSym := rfl
@[simp] theorem Block.setText_encLen (t : Text) (b : Block) : (b.setText t).encLen = b.encLen := rfl
@[simp] theorem Block.setText_decAcc (t : Text) (b : Block) : (b.setText t).decAcc = b.decAcc := rfl
@[simp] theorem Block.setText_decBad (t : Text) (b : Block) : (b.setText t).decBad = b.decBad := rfl
@[simp] theorem Block.setText_decBadc (t : Text) (b : Block) : (b.setText t).decBadc = b.decBadc := rfl
@[simp] theorem Block.setText_fmtUuid (t : Text) (b : Block) : (b.setText t).fmtUuid = b.fmtUuid := rfl
@[simp] theorem Block.setText_fmtSeg (t : Text) (b : Block) : (b.setText t).fmtSeg = b.fmtSeg := rfl
@[simp] theorem Block.setText_fmtSpace (t : Text) (b : Block) : (b.setText t).fmtSpace = b.fmtSpace := rfl
@[simp] theorem Block.setText_fmtWide (t : Text) (b : Block) : (b.setText t).fmtWide = b.fmtWide := rfl
@[simp] theorem Block.setText_outBuf (t : Text) (b : Block) : (b.setText t).outBuf = writeText b.outBuf 0 t := rfl
@[simp] theorem Block.setText_outLen (t : Text) (b : Block) : (b.setText t).outLen = BitVec.ofNat 6 t.length := rfl
@[simp] theorem Block.setText_outPos (t : Text) (b : Block) : (b.setText t).outPos = b.outPos := rfl
@[simp] theorem Block.setText_rStatus (t : Text) (b : Block) : (b.setText t).rStatus = b.rStatus := rfl
@[simp] theorem Block.setText_rHexvalid (t : Text) (b : Block) : (b.setText t).rHexvalid = b.rHexvalid := rfl
@[simp] theorem Block.setText_segSyms (t : Text) (b : Block) : (b.setText t).segSyms = b.segSyms := rfl
@[simp] theorem Block.setText_fmtLong (t : Text) (b : Block) : (b.setText t).fmtLong = b.fmtLong := rfl

@[simp] theorem Block.markSpace_st (b : Block) : (b.markSpace).st = b.st := rfl
@[simp] theorem Block.markSpace_opR (b : Block) : (b.markSpace).opR = b.opR := rfl
@[simp] theorem Block.markSpace_encSh (b : Block) : (b.markSpace).encSh = b.encSh := rfl
@[simp] theorem Block.markSpace_encSym (b : Block) : (b.markSpace).encSym = b.encSym := rfl
@[simp] theorem Block.markSpace_encLen (b : Block) : (b.markSpace).encLen = b.encLen := rfl
@[simp] theorem Block.markSpace_decAcc (b : Block) : (b.markSpace).decAcc = b.decAcc := rfl
@[simp] theorem Block.markSpace_decBad (b : Block) : (b.markSpace).decBad = b.decBad := rfl
@[simp] theorem Block.markSpace_decBadc (b : Block) : (b.markSpace).decBadc = b.decBadc := rfl
@[simp] theorem Block.markSpace_fmtUuid (b : Block) : (b.markSpace).fmtUuid = b.fmtUuid := rfl
@[simp] theorem Block.markSpace_fmtSeg (b : Block) : (b.markSpace).fmtSeg = b.fmtSeg := rfl
@[simp] theorem Block.markSpace_fmtSpace (b : Block) : (b.markSpace).fmtSpace = true := rfl
@[simp] theorem Block.markSpace_fmtWide (b : Block) : (b.markSpace).fmtWide = b.fmtWide := rfl
@[simp] theorem Block.markSpace_outBuf (b : Block) : (b.markSpace).outBuf = b.outBuf := rfl
@[simp] theorem Block.markSpace_outLen (b : Block) : (b.markSpace).outLen = b.outLen := rfl
@[simp] theorem Block.markSpace_outPos (b : Block) : (b.markSpace).outPos = b.outPos := rfl
@[simp] theorem Block.markSpace_rStatus (b : Block) : (b.markSpace).rStatus = b.rStatus := rfl
@[simp] theorem Block.markSpace_rHexvalid (b : Block) : (b.markSpace).rHexvalid = b.rHexvalid := rfl
@[simp] theorem Block.markSpace_segSyms (b : Block) : (b.markSpace).segSyms = b.segSyms := rfl
@[simp] theorem Block.markSpace_fmtLong (b : Block) : (b.markSpace).fmtLong = b.fmtLong := rfl

@[simp] theorem Block.commit_st (g : Nat) (b : Block) : (b.commit g).st = b.st := rfl
@[simp] theorem Block.commit_opR (g : Nat) (b : Block) : (b.commit g).opR = b.opR := rfl
@[simp] theorem Block.commit_encSh (g : Nat) (b : Block) : (b.commit g).encSh = b.encSh := rfl
@[simp] theorem Block.commit_encSym (g : Nat) (b : Block) : (b.commit g).encSym = b.encSym := rfl
@[simp] theorem Block.commit_encLen (g : Nat) (b : Block) : (b.commit g).encLen = b.encLen := rfl
@[simp] theorem Block.commit_decAcc (g : Nat) (b : Block) : (b.commit g).decAcc = b.decAcc := rfl
@[simp] theorem Block.commit_decBad (g : Nat) (b : Block) : (b.commit g).decBad = b.decBad := rfl
@[simp] theorem Block.commit_decBadc (g : Nat) (b : Block) : (b.commit g).decBadc = b.decBadc := rfl
@[simp] theorem Block.commit_fmtUuid (g : Nat) (b : Block) : (b.commit g).fmtUuid = putGroup b.fmtUuid g (b.decAcc.extractLsb' 0 32) := rfl
@[simp] theorem Block.commit_fmtSeg (g : Nat) (b : Block) : (b.commit g).fmtSeg = b.fmtSeg := rfl
@[simp] theorem Block.commit_fmtSpace (g : Nat) (b : Block) : (b.commit g).fmtSpace = b.fmtSpace := rfl
@[simp] theorem Block.commit_fmtWide (g : Nat) (b : Block) : (b.commit g).fmtWide = (b.fmtWide || isWide b.decAcc) := rfl
@[simp] theorem Block.commit_outBuf (g : Nat) (b : Block) : (b.commit g).outBuf = b.outBuf := rfl
@[simp] theorem Block.commit_outLen (g : Nat) (b : Block) : (b.commit g).outLen = b.outLen := rfl
@[simp] theorem Block.commit_outPos (g : Nat) (b : Block) : (b.commit g).outPos = b.outPos := rfl
@[simp] theorem Block.commit_rStatus (g : Nat) (b : Block) : (b.commit g).rStatus = b.rStatus := rfl
@[simp] theorem Block.commit_rHexvalid (g : Nat) (b : Block) : (b.commit g).rHexvalid = b.rHexvalid := rfl
@[simp] theorem Block.commit_segSyms (g : Nat) (b : Block) : (b.commit g).segSyms = b.segSyms := rfl
@[simp] theorem Block.commit_fmtLong (g : Nat) (b : Block) : (b.commit g).fmtLong = (b.fmtLong || decide (7 < b.segSyms)) := rfl

@[simp] theorem Block.encDigit_st (b : Block) : (b.encDigit).st = b.st := rfl
@[simp] theorem Block.encDigit_opR (b : Block) : (b.encDigit).opR = b.opR := rfl
@[simp] theorem Block.encDigit_encSh (b : Block) : (b.encDigit).encSh = b.encSh >>> 5 := rfl
@[simp] theorem Block.encDigit_encSym (b : Block) : (b.encDigit).encSym = pushSymbol (alpha (b.encSh.extractLsb' 0 5)) b.encSym := rfl
@[simp] theorem Block.encDigit_encLen (b : Block) : (b.encDigit).encLen = b.encLen + 1#3 := rfl
@[simp] theorem Block.encDigit_decAcc (b : Block) : (b.encDigit).decAcc = b.decAcc := rfl
@[simp] theorem Block.encDigit_decBad (b : Block) : (b.encDigit).decBad = b.decBad := rfl
@[simp] theorem Block.encDigit_decBadc (b : Block) : (b.encDigit).decBadc = b.decBadc := rfl
@[simp] theorem Block.encDigit_fmtUuid (b : Block) : (b.encDigit).fmtUuid = b.fmtUuid := rfl
@[simp] theorem Block.encDigit_fmtSeg (b : Block) : (b.encDigit).fmtSeg = b.fmtSeg := rfl
@[simp] theorem Block.encDigit_fmtSpace (b : Block) : (b.encDigit).fmtSpace = b.fmtSpace := rfl
@[simp] theorem Block.encDigit_fmtWide (b : Block) : (b.encDigit).fmtWide = b.fmtWide := rfl
@[simp] theorem Block.encDigit_outBuf (b : Block) : (b.encDigit).outBuf = b.outBuf := rfl
@[simp] theorem Block.encDigit_outLen (b : Block) : (b.encDigit).outLen = b.outLen := rfl
@[simp] theorem Block.encDigit_outPos (b : Block) : (b.encDigit).outPos = b.outPos := rfl
@[simp] theorem Block.encDigit_rStatus (b : Block) : (b.encDigit).rStatus = b.rStatus := rfl
@[simp] theorem Block.encDigit_rHexvalid (b : Block) : (b.encDigit).rHexvalid = b.rHexvalid := rfl
@[simp] theorem Block.encDigit_segSyms (b : Block) : (b.encDigit).segSyms = b.segSyms := rfl
@[simp] theorem Block.encDigit_fmtLong (b : Block) : (b.encDigit).fmtLong = b.fmtLong := rfl

/-! ## Updates of the host's side -/

@[simp] theorem HostSide.pass_cmdQ (h : HostSide) : (h.pass).cmdQ = h.cmdQ := rfl
@[simp] theorem HostSide.pass_cmdHeld (h : HostSide) : (h.pass).cmdHeld = h.cmdValid := rfl
@[simp] theorem HostSide.pass_tinQ (h : HostSide) : (h.pass).tinQ = h.tinQ := rfl
@[simp] theorem HostSide.pass_tinHeld (h : HostSide) : (h.pass).tinHeld = h.tinValid := rfl
@[simp] theorem HostSide.pass_moves (h : HostSide) : (h.pass).moves = h.moves.tail := rfl
@[simp] theorem HostSide.pass_responses (h : HostSide) : (h.pass).responses = h.responses := rfl
@[simp] theorem HostSide.pass_texts (h : HostSide) : (h.pass).texts = h.texts := rfl

@[simp] theorem HostSide.takeCmd_cmdQ (h : HostSide) : (h.takeCmd).cmdQ = h.cmdQ.tail := rfl
@[simp] theorem HostSide.takeCmd_cmdHeld (h : HostSide) : (h.takeCmd).cmdHeld = false := rfl
@[simp] theorem HostSide.takeCmd_tinQ (h : HostSide) : (h.takeCmd).tinQ = h.tinQ := rfl
@[simp] theorem HostSide.takeCmd_tinHeld (h : HostSide) : (h.takeCmd).tinHeld = h.tinHeld := rfl
@[simp] theorem HostSide.takeCmd_moves (h : HostSide) : (h.takeCmd).moves = h.moves := rfl
@[simp] theorem HostSide.takeCmd_responses (h : HostSide) : (h.takeCmd).responses = h.responses := rfl
@[simp] theorem HostSide.takeCmd_texts (h : HostSide) : (h.takeCmd).texts = h.texts := rfl

@[simp] theorem HostSide.takeTin_cmdQ (h : HostSide) : (h.takeTin).cmdQ = h.cmdQ := rfl
@[simp] theorem HostSide.takeTin_cmdHeld (h : HostSide) : (h.takeTin).cmdHeld = h.cmdHeld := rfl
@[simp] theorem HostSide.takeTin_tinQ (h : HostSide) : (h.takeTin).tinQ = h.tinQ.tail := rfl
@[simp] theorem HostSide.takeTin_tinHeld (h : HostSide) : (h.takeTin).tinHeld = false := rfl
@[simp] theorem HostSide.takeTin_moves (h : HostSide) : (h.takeTin).moves = h.moves := rfl
@[simp] theorem HostSide.takeTin_responses (h : HostSide) : (h.takeTin).responses = h.responses := rfl
@[simp] theorem HostSide.takeTin_texts (h : HostSide) : (h.takeTin).texts = h.texts := rfl

@[simp] theorem HostSide.receive_cmdQ (r : Response) (h : HostSide) : (h.receive r).cmdQ = h.cmdQ := rfl
@[simp] theorem HostSide.receive_cmdHeld (r : Response) (h : HostSide) : (h.receive r).cmdHeld = h.cmdHeld := rfl
@[simp] theorem HostSide.receive_tinQ (r : Response) (h : HostSide) : (h.receive r).tinQ = h.tinQ := rfl
@[simp] theorem HostSide.receive_tinHeld (r : Response) (h : HostSide) : (h.receive r).tinHeld = h.tinHeld := rfl
@[simp] theorem HostSide.receive_moves (r : Response) (h : HostSide) : (h.receive r).moves = h.moves := rfl
@[simp] theorem HostSide.receive_responses (r : Response) (h : HostSide) : (h.receive r).responses = h.responses ++ [r] := rfl
@[simp] theorem HostSide.receive_texts (r : Response) (h : HostSide) : (h.receive r).texts = h.texts := rfl

@[simp] theorem HostSide.receiveText_cmdQ (o : OutBeat) (h : HostSide) : (h.receiveText o).cmdQ = h.cmdQ := rfl
@[simp] theorem HostSide.receiveText_cmdHeld (o : OutBeat) (h : HostSide) : (h.receiveText o).cmdHeld = h.cmdHeld := rfl
@[simp] theorem HostSide.receiveText_tinQ (o : OutBeat) (h : HostSide) : (h.receiveText o).tinQ = h.tinQ := rfl
@[simp] theorem HostSide.receiveText_tinHeld (o : OutBeat) (h : HostSide) : (h.receiveText o).tinHeld = h.tinHeld := rfl
@[simp] theorem HostSide.receiveText_moves (o : OutBeat) (h : HostSide) : (h.receiveText o).moves = h.moves := rfl
@[simp] theorem HostSide.receiveText_responses (o : OutBeat) (h : HostSide) : (h.receiveText o).responses = h.responses := rfl
@[simp] theorem HostSide.receiveText_texts (o : OutBeat) (h : HostSide) : (h.receiveText o).texts = h.texts ++ [o] := rfl

@[simp] theorem HostSide.restart_cmdQ (cs : List CmdWord) (bs : List BeatWord) (h : HostSide) : (h.restart cs bs).cmdQ = cs := rfl
@[simp] theorem HostSide.restart_cmdHeld (cs : List CmdWord) (bs : List BeatWord) (h : HostSide) : (h.restart cs bs).cmdHeld = false := rfl
@[simp] theorem HostSide.restart_tinQ (cs : List CmdWord) (bs : List BeatWord) (h : HostSide) : (h.restart cs bs).tinQ = bs := rfl
@[simp] theorem HostSide.restart_tinHeld (cs : List CmdWord) (bs : List BeatWord) (h : HostSide) : (h.restart cs bs).tinHeld = false := rfl
@[simp] theorem HostSide.restart_moves (cs : List CmdWord) (bs : List BeatWord) (h : HostSide) : (h.restart cs bs).moves = h.moves.tail := rfl
@[simp] theorem HostSide.restart_responses (cs : List CmdWord) (bs : List BeatWord) (h : HostSide) : (h.restart cs bs).responses = h.responses := rfl
@[simp] theorem HostSide.restart_texts (cs : List CmdWord) (bs : List BeatWord) (h : HostSide) : (h.restart cs bs).texts = h.texts := rfl

/-! ## Updates of the state -/

@[simp] theorem State.pass_blk (s : State) : s.pass.blk = s.blk := rfl
@[simp] theorem State.pass_host (s : State) : s.pass.host = s.host.pass := rfl
@[simp] theorem State.pass_policy (s : State) : s.pass.policy = s.policy := rfl
@[simp] theorem State.pass_resets (s : State) : s.pass.resets = s.resets := rfl
@[simp] theorem resetEdge_st (cs : List CmdWord) (bs : List BeatWord) (s : State) :
    (resetEdge cs bs s).blk.st = .idle := rfl
@[simp] theorem resetEdge_host (cs : List CmdWord) (bs : List BeatWord) (s : State) :
    (resetEdge cs bs s).host = s.host.restart cs bs := rfl
@[simp] theorem resetEdge_policy (cs : List CmdWord) (bs : List BeatWord) (s : State) :
    (resetEdge cs bs s).policy = s.policy := rfl
@[simp] theorem resetEdge_resets (cs : List CmdWord) (bs : List BeatWord) (s : State) :
    (resetEdge cs bs s).resets = s.resets + 1 := rfl

end Sys2Proof.Machine
end

