-- ==== Sys2Proof/Laws/Tables.lean ====
section
/-! SUPPORT. The tables and the renderings: `REV` inverts `ALPHA`, the classes, the widths of the
rendered texts, and the four groups of a UUID. -/

namespace Sys2Proof.Machine

/-- `REV` finds every symbol (20_memory.md R51). -/
@[simp] theorem rev_alpha : ∀ i : BitVec 5, rev (alpha i) = some i := by decide

/-- What `REV` finds is the symbol's digit value (20_memory.md R51). -/
theorem alpha_of_rev : ∀ c : Byte, ∀ i ∈ rev c, alpha i = c := by decide

theorem rev_eq_some_iff (c : Byte) (i : BitVec 5) : rev c = some i ↔ alpha i = c := by
  constructor
  · exact alpha_of_rev c i
  · rintro rfl; exact rev_alpha i

theorem alpha_injective {i j : BitVec 5} (h : alpha i = alpha j) : i = j := by
  have := rev_alpha i
  rw [h, rev_alpha] at this
  exact (Option.some.inj this).symm

@[simp] theorem charClass_alpha : ∀ i : BitVec 5, charClass (alpha i) = .sym := by decide
@[simp] theorem alpha_ne_hyphen : ∀ i : BitVec 5, alpha i ≠ hyphenChar := by decide
@[simp] theorem alpha_ne_space : ∀ i : BitVec 5, alpha i ≠ spaceChar := by decide
@[simp] theorem rev_hyphen : rev hyphenChar = none := by decide
@[simp] theorem rev_space : rev spaceChar = none := by decide

/-- The symbols are exactly the codes `REV` finds (30_encoding.md R77). -/
theorem charClass_eq_sym_iff : ∀ c : Byte, charClass c = .sym ↔ (rev c).isSome = true := by decide

@[simp] theorem hex8_length (v : BitVec 32) : (hex8 v).length = 8 := rfl
@[simp] theorem uuidText_length (u : BitVec 128) : (uuidText u).length = 36 := by
  simp [uuidText]

/-- A UUID value is the join of its groups (42_group_formatter.md R161). -/
@[simp] theorem joinGroups_group (u : BitVec 128) :
    joinGroups (group u 0) (group u 1) (group u 2) (group u 3) = u := by
  apply BitVec.eq_of_getLsbD_eq
  intro i hi
  simp only [joinGroups, group, BitVec.getLsbD_append, BitVec.getLsbD_extractLsb']
  split
  · simp; omega
  · split
    · simp; grind
    · split
      · simp; grind
      · simp; grind

@[simp] theorem group_joinGroups_zero (a b c d : BitVec 32) : group (joinGroups a b c d) 0 = a := by
  apply BitVec.eq_of_getLsbD_eq
  intro i hi
  simp only [joinGroups, group, BitVec.getLsbD_append, BitVec.getLsbD_extractLsb']
  grind

@[simp] theorem group_joinGroups_one (a b c d : BitVec 32) : group (joinGroups a b c d) 1 = b := by
  apply BitVec.eq_of_getLsbD_eq
  intro i hi
  simp only [joinGroups, group, BitVec.getLsbD_append, BitVec.getLsbD_extractLsb']
  grind

@[simp] theorem group_joinGroups_two (a b c d : BitVec 32) : group (joinGroups a b c d) 2 = c := by
  apply BitVec.eq_of_getLsbD_eq
  intro i hi
  simp only [joinGroups, group, BitVec.getLsbD_append, BitVec.getLsbD_extractLsb']
  grind

@[simp] theorem group_joinGroups_three (a b c d : BitVec 32) :
    group (joinGroups a b c d) 3 = d := by
  apply BitVec.eq_of_getLsbD_eq
  intro i hi
  simp only [joinGroups, group, BitVec.getLsbD_append, BitVec.getLsbD_extractLsb']
  grind

/-- Writing slice `g` writes that slice and keeps the others (42_group_formatter.md R176). -/
theorem group_putGroup (u : BitVec 128) (g k : Nat) (v : BitVec 32) (hk : k < 4) :
    group (putGroup u g v) k = if k = g then v else group u k := by
  obtain rfl | rfl | rfl | rfl : k = 0 ∨ k = 1 ∨ k = 2 ∨ k = 3 := by omega
  all_goals simp [putGroup, eq_comm]

/-- Bits of the accumulator after a digit (41_base32_decoder.md R131). -/
theorem pushDigit_toNat (a : BitVec 64) (i : BitVec 5) :
    (pushDigit a i).toNat = (32 * a.toNat + i.toNat) % 2 ^ 64 := by
  have hi := i.isLt
  have ha := a.isLt
  simp only [pushDigit, BitVec.toNat_append, BitVec.extractLsb'_toNat, Nat.shiftRight_zero]
  rw [← Nat.shiftLeft_add_eq_or_of_lt (by omega), Nat.shiftLeft_eq]
  omega

/-- `(a << 5) | i`, the form of the source (41_base32_decoder.md R131). -/
theorem pushDigit_eq_shift_or (a : BitVec 64) (i : BitVec 5) :
    pushDigit a i = (a <<< 5) ||| i.zeroExtend 64 := by
  apply BitVec.eq_of_getLsbD_eq
  intro k hk
  simp only [pushDigit, BitVec.getLsbD_append, BitVec.getLsbD_extractLsb', BitVec.getLsbD_or,
    BitVec.getLsbD_shiftLeft, BitVec.truncate_eq_setWidth, BitVec.getLsbD_setWidth]
  by_cases h : k < 5
  · simp [h, hk]
  · have : i.getLsbD k = false := BitVec.getLsbD_of_ge _ _ (by omega)
    simp [h, hk, this]; omega

/-- Wide means `2^32` or more (00_scope.md R6). -/
theorem isWide_iff (a : BitVec 64) : isWide a = true ↔ 2 ^ 32 ≤ a.toNat := by
  have ha := a.isLt
  simp only [isWide, bne_iff_ne, ne_eq, ← BitVec.toNat_inj, BitVec.extractLsb'_toNat,
    Nat.shiftRight_eq_div_pow, BitVec.toNat_ofNat]
  omega

end Sys2Proof.Machine
end

