-- ==== Sys2Proof/Laws/Ops.lean ====
section
/-! SUPPORT. What each shared operation can do, said once: the callers cite these lemmas and do not
unfold the operation. -/

namespace Sys2Proof.Machine

theorem whenIdle_of_idle {f : Block → Block} {s : State} (h : s.blk.st = .idle) :
    whenIdle f s = .next { s with blk := f s.blk } := by
  simp [whenIdle, h]

theorem whenIdle_of_busy {f : Block → Block} {s : State} (h : s.blk.st ≠ .idle) :
    whenIdle f s = .next s := by
  unfold whenIdle; split <;> simp_all

/-- A command row always ends in a next state. -/
theorem whenIdle_eq (f : Block → Block) (s : State) :
    whenIdle f s = .next (if s.blk.st = .idle then { s with blk := f s.blk } else s) := by
  by_cases h : s.blk.st = .idle
  · simp [whenIdle_of_idle h, h]
  · simp [whenIdle_of_busy h, h]

theorem onText_of_decText {f g : Block → Block} {s : State} (h : s.blk.st = .decText) :
    onText f g s = .next { s with blk := f s.blk } := by
  simp [onText, h]

theorem onText_of_fromBgText {f g : Block → Block} {s : State} (h : s.blk.st = .fromBgText) :
    onText f g s = .next { s with blk := g s.blk } := by
  simp [onText, h]

theorem onText_of_not_ready {f g : Block → Block} {s : State} (h : s.blk.tinReady = false) :
    onText f g s = .next s := by
  unfold onText; split <;> simp_all [Block.tinReady]

/-- `lookUp` of a symbol while no character was bad. -/
theorem Block.lookUp_symbol {b : Block} {c : Byte} {i : BitVec 5} (hb : b.decBad = false)
    (h : rev c = some i) :
    b.lookUp c = { b with decAcc := pushDigit b.decAcc i, segSyms := b.segSyms + 1 } := by
  simp [Block.lookUp, hb, h]

/-- `lookUp` of the first bad character. -/
theorem Block.lookUp_invalid {b : Block} {c : Byte} (hb : b.decBad = false)
    (h : rev c = none) : b.lookUp c = { b with decBad := true, decBadc := c } := by
  simp [Block.lookUp, hb, h]

/-- `lookUp` after a bad character. -/
theorem Block.lookUp_of_bad {b : Block} {c : Byte} (hb : b.decBad = true) : b.lookUp c = b := by
  simp [Block.lookUp, hb]

/-- All that `lookUp` can do. -/
theorem Block.lookUp_cases (b : Block) (c : Byte) :
    (b.decBad = true ∧ b.lookUp c = b) ∨
    (b.decBad = false ∧ rev c = none ∧
      b.lookUp c = { b with decBad := true, decBadc := c }) ∨
    (b.decBad = false ∧ ∃ i, rev c = some i ∧
      b.lookUp c = { b with decAcc := pushDigit b.decAcc i, segSyms := b.segSyms + 1 }) := by
  by_cases hb : b.decBad = true
  · exact .inl ⟨hb, lookUp_of_bad hb⟩
  · have hb := Bool.eq_false_iff.mpr hb
    match hr : rev c with
    | none => exact .inr (.inl ⟨hb, rfl, lookUp_invalid hb hr⟩)
    | some i => exact .inr (.inr ⟨hb, i, rfl, lookUp_symbol hb hr⟩)

/-- `lookUp` leaves the sequencer, the formatter and the result alone. -/
theorem Block.lookUp_frame (b : Block) (c : Byte) :
    (b.lookUp c).st = b.st ∧ (b.lookUp c).opR = b.opR ∧ (b.lookUp c).outLen = b.outLen ∧
    (b.lookUp c).fmtSeg = b.fmtSeg ∧ (b.lookUp c).fmtUuid = b.fmtUuid ∧
    (b.lookUp c).fmtSpace = b.fmtSpace ∧ (b.lookUp c).fmtWide = b.fmtWide ∧
    (b.lookUp c).outBuf = b.outBuf := by
  obtain ⟨-, h⟩ | ⟨-, -, h⟩ | ⟨-, i, -, h⟩ := b.lookUp_cases c <;> simp [h]

/-- All that a hyphen can do to the registers. -/
theorem Block.hyphenStep_cases (b : Block) :
    (b.fmtSeg < 4#3 ∧ b.hyphenStep =
      { b.commit b.fmtSeg.toNat with decAcc := 0#64, segSyms := 0, fmtSeg := b.fmtSeg + 1#3 }) ∨
    (¬ b.fmtSeg < 4#3 ∧ b.hyphenStep = b) := by
  unfold Block.hyphenStep
  split
  · exact .inl ⟨‹_›, rfl⟩
  · exact .inr ⟨‹_›, rfl⟩

/-- All that the EOT of a `FROMBG` text can do to the registers. -/
theorem Block.endFromBgText_cases {p : RangePolicy} {b t : Block}
    (h : b.endFromBgText p = some t) :
    (fromBgStatus p b.commitLast = some .ok ∧
      t = (b.commitLast.setText (uuidText b.commitLast.fmtUuid)).answer .ok) ∨
    (∃ e, fromBgStatus p b.commitLast = some e ∧ e ≠ .ok ∧ t = b.commitLast.answer e) := by
  unfold Block.endFromBgText at h
  split at h
  · cases h
  · exact .inl ⟨‹_›, (Option.some.inj h).symm⟩
  · exact .inr ⟨_, ‹_›, by rintro rfl; simp_all, (Option.some.inj h).symm⟩

/-- Only the parameter `REFUSE` leaves a text without a meaning (42_group_formatter.md R184). -/
theorem fromBgStatus_isSome {p : RangePolicy} (hp : p ≠ .refuse) (b : Block) :
    (fromBgStatus p b).isSome = true := by
  have hr : ∀ w l, (rangeStatus p w l).isSome = true := by
    cases p
    · decide
    · decide
    · exact absurd rfl hp
  unfold fromBgStatus
  split
  · rfl
  split
  · rfl
  split
  · rfl
  exact hr _ _

/-- All that an `ENC_ITER` step can do to the registers. -/
theorem Block.encIter_cases {b t : Block} (h : b.encIter = some t) :
    (b.encSh >>> 5 ≠ 0#32 ∧ t = b.encDigit) ∨
    (b.encSh >>> 5 = 0#32 ∧ b.encDigit.lastValue = true ∧
      t = (b.encDigit.appendText b.encDigit.encText).answer .ok) ∨
    (b.encSh >>> 5 = 0#32 ∧ b.encDigit.lastValue = false ∧ b.fmtSeg < 3#3 ∧
      t = { (b.encDigit.appendText (b.encDigit.encText ++ [hyphenChar])).loadEncoder
          (group b.fmtUuid (b.fmtSeg.toNat + 1)) with fmtSeg := b.fmtSeg + 1#3 }) := by
  unfold Block.encIter at h
  split at h
  · cases h
  split at h
  · rename_i h0
    simp only [Block.finishValue] at h
    split at h
    · split at h
      · exact .inr (.inl ⟨h0, ‹_›, (Option.some.inj h).symm⟩)
      · cases h
    · split at h
      · rename_i hl hf
        exact .inr (.inr ⟨h0, by simpa using hl, hf.1, (Option.some.inj h).symm⟩)
      · cases h
  · exact .inl ⟨‹_›, (Option.some.inj h).symm⟩

/-! ## The result text -/

/-- Writing leaves the entries before the text alone. -/
theorem writeText_getElem_of_lt (buf : Vector Byte 36) (pos : Nat) (t : Text) (k : Nat)
    (hk : k < 36) (h : k < pos) : (writeText buf pos t)[k] = buf[k] := by
  induction t generalizing buf pos with
  | nil => rfl
  | cons c cs ih =>
    rw [writeText, ih _ _ (by omega), Vector.getElem_setIfInBounds_ne]
    omega

/-- Writing leaves the entries after the text alone. -/
theorem writeText_getElem_of_ge (buf : Vector Byte 36) (pos : Nat) (t : Text) (k : Nat)
    (hk : k < 36) (h : pos + t.length ≤ k) : (writeText buf pos t)[k] = buf[k] := by
  induction t generalizing buf pos with
  | nil => rfl
  | cons c cs ih =>
    simp only [List.length_cons] at h
    rw [writeText, ih _ _ (by omega), Vector.getElem_setIfInBounds_ne]
    omega

/-- The text stands where it was written. -/
theorem writeText_getElem (buf : Vector Byte 36) (pos : Nat) (t : Text) (k : Nat)
    (hk : pos + k < 36) (h : k < t.length) : (writeText buf pos t)[pos + k] = t[k] := by
  induction t generalizing buf pos k with
  | nil => simp at h
  | cons c cs ih =>
    cases k with
    | zero =>
      simp only [writeText, Nat.add_zero, List.getElem_cons_zero]
      rw [writeText_getElem_of_lt _ _ _ _ (by omega) (by omega)]
      simp
    | succ k =>
      have := ih (buf.setIfInBounds pos c) (pos + 1) k (by omega) (by simpa using h)
      simp only [writeText, List.getElem_cons_succ]
      rw [← this]
      congr 1; omega

end Sys2Proof.Machine
end

