-- ==== Sys2Proof/Laws/PerInstr.lean ====
section
/-! SUPPORT. Statements made for every instruction, with one lemma per constructor. The family
RoundTrip says that the decoder reads back what the encoder writes. -/

namespace Sys2Proof.Laws

open Sys2Proof.Machine

/-- Decoding the word of a well-formed instruction gives the instruction back. -/
def RoundTrip.Statement (i : Instr) : Prop := i.wellFormed = true → decode (encode i) = i

/-! The fields of a word that is put together from its fields. -/

@[simp] theorem cmdOp_cmdWord (op : BitVec 3) (null : BitVec 1) (data : BitVec 128) :
    cmdOp (cmdWord op null data) = op := by
  apply BitVec.eq_of_getLsbD_eq
  intro k hk
  simp only [cmdOp, cmdWord, BitVec.getLsbD_extractLsb', BitVec.getLsbD_append]
  grind

@[simp] theorem cmdNull_cmdWord (op : BitVec 3) (null : BitVec 1) (data : BitVec 128) :
    cmdNull (cmdWord op null data) = null := by
  apply BitVec.eq_of_getLsbD_eq
  intro k hk
  simp only [cmdNull, cmdWord, BitVec.getLsbD_extractLsb', BitVec.getLsbD_append]
  grind

@[simp] theorem cmdData_cmdWord (op : BitVec 3) (null : BitVec 1) (data : BitVec 128) :
    cmdData (cmdWord op null data) = data := by
  apply BitVec.eq_of_getLsbD_eq
  intro k hk
  simp only [cmdData, cmdWord, BitVec.getLsbD_extractLsb', BitVec.getLsbD_append]
  grind

@[simp] theorem beatEot_beatWord (e : BitVec 1) (c : Byte) : beatEot (beatWord e c) = e := by
  apply BitVec.eq_of_getLsbD_eq
  intro k hk
  simp only [beatEot, beatWord, BitVec.getLsbD_extractLsb', BitVec.getLsbD_append]
  grind

@[simp] theorem beatChar_beatWord (e : BitVec 1) (c : Byte) : beatChar (beatWord e c) = c := by
  apply BitVec.eq_of_getLsbD_eq
  intro k hk
  simp only [beatChar, beatWord, BitVec.getLsbD_extractLsb', BitVec.getLsbD_append]
  grind

/-- The two halves of the `ENC32` data field. -/
theorem data_halves (ig : BitVec 96) (v : BitVec 32) :
    (ig ++ v).extractLsb' 32 96 = ig ∧ (ig ++ v).extractLsb' 0 32 = v := by
  constructor <;> apply BitVec.eq_of_getLsbD_eq <;> intro k hk <;>
    simp only [BitVec.getLsbD_extractLsb', BitVec.getLsbD_append] <;> grind

@[simp] theorem decodeBeat_eot (c : Byte) : decodeBeat (beatWord 1#1 c) = .eot c := by
  simp [decodeBeat]

@[simp] theorem decodeBeat_char (c : Byte) : decodeBeat (beatWord 0#1 c) = decodeChar c := by
  simp [decodeBeat]

/-- A code of class `OTHER` matches no other row. -/
theorem decodeChar_other : ∀ c : Byte, charClass c = .other → decodeChar c = .other c := by decide

/-- Every null bit is 0 or 1. -/
theorem null_cases : ∀ null : BitVec 1, null = 0#1 ∨ null = 1#1 := by decide

theorem RoundTrip.reservedOp0 (null : BitVec 1) (data : BitVec 128) : RoundTrip.Statement (.reservedOp0 null data) := by
  intro _
  simp +decide [encode, decode, decodeCmd]

theorem RoundTrip.reservedOp5 (null : BitVec 1) (data : BitVec 128) : RoundTrip.Statement (.reservedOp5 null data) := by
  intro _
  simp +decide [encode, decode, decodeCmd]

theorem RoundTrip.reservedOp6 (null : BitVec 1) (data : BitVec 128) : RoundTrip.Statement (.reservedOp6 null data) := by
  intro _
  simp +decide [encode, decode, decodeCmd]

theorem RoundTrip.reservedOp7 (null : BitVec 1) (data : BitVec 128) : RoundTrip.Statement (.reservedOp7 null data) := by
  intro _
  simp +decide [encode, decode, decodeCmd]

theorem RoundTrip.enc32 (ig : BitVec 96) (v : BitVec 32) : RoundTrip.Statement (.enc32 ig v) := by
  intro _
  simp +decide [encode, decode, decodeCmd, data_halves ig v]

theorem RoundTrip.illegalEnc32Null (data : BitVec 128) : RoundTrip.Statement (.illegalEnc32Null data) := by
  intro _
  simp +decide [encode, decode, decodeCmd]

theorem RoundTrip.dec32 (data : BitVec 128) : RoundTrip.Statement (.dec32 data) := by
  intro _
  simp +decide [encode, decode, decodeCmd]

theorem RoundTrip.dec32Null (data : BitVec 128) : RoundTrip.Statement (.dec32Null data) := by
  intro _
  simp +decide [encode, decode, decodeCmd]

theorem RoundTrip.illegalTobgNull (data : BitVec 128) : RoundTrip.Statement (.illegalTobgNull data) := by
  intro _
  simp +decide [encode, decode, decodeCmd]

theorem RoundTrip.frombg (data : BitVec 128) : RoundTrip.Statement (.frombg data) := by
  intro _
  simp +decide [encode, decode, decodeCmd]

theorem RoundTrip.frombgNull (data : BitVec 128) : RoundTrip.Statement (.frombgNull data) := by
  intro _
  simp +decide [encode, decode, decodeCmd]

theorem RoundTrip.tobg (u : BitVec 128) : RoundTrip.Statement (.tobg u) := by
  intro _
  simp +decide [encode, decode, decodeCmd]

theorem RoundTrip.eot (c : Byte) : RoundTrip.Statement (.eot c) := by
  intro _
  simp [encode, decode]

theorem RoundTrip.sym0 : RoundTrip.Statement .sym0 := fun _ => by decide
theorem RoundTrip.sym1 : RoundTrip.Statement .sym1 := fun _ => by decide
theorem RoundTrip.sym2 : RoundTrip.Statement .sym2 := fun _ => by decide
theorem RoundTrip.sym3 : RoundTrip.Statement .sym3 := fun _ => by decide
theorem RoundTrip.sym4 : RoundTrip.Statement .sym4 := fun _ => by decide
theorem RoundTrip.sym5 : RoundTrip.Statement .sym5 := fun _ => by decide
theorem RoundTrip.sym6 : RoundTrip.Statement .sym6 := fun _ => by decide
theorem RoundTrip.sym7 : RoundTrip.Statement .sym7 := fun _ => by decide
theorem RoundTrip.sym8 : RoundTrip.Statement .sym8 := fun _ => by decide
theorem RoundTrip.sym9 : RoundTrip.Statement .sym9 := fun _ => by decide
theorem RoundTrip.symA : RoundTrip.Statement .symA := fun _ => by decide
theorem RoundTrip.symB : RoundTrip.Statement .symB := fun _ => by decide
theorem RoundTrip.symC : RoundTrip.Statement .symC := fun _ => by decide
theorem RoundTrip.symD : RoundTrip.Statement .symD := fun _ => by decide
theorem RoundTrip.symE : RoundTrip.Statement .symE := fun _ => by decide
theorem RoundTrip.symF : RoundTrip.Statement .symF := fun _ => by decide
theorem RoundTrip.symG : RoundTrip.Statement .symG := fun _ => by decide
theorem RoundTrip.symH : RoundTrip.Statement .symH := fun _ => by decide
theorem RoundTrip.symJ : RoundTrip.Statement .symJ := fun _ => by decide
theorem RoundTrip.symK : RoundTrip.Statement .symK := fun _ => by decide
theorem RoundTrip.symM : RoundTrip.Statement .symM := fun _ => by decide
theorem RoundTrip.symN : RoundTrip.Statement .symN := fun _ => by decide
theorem RoundTrip.symP : RoundTrip.Statement .symP := fun _ => by decide
theorem RoundTrip.symQ : RoundTrip.Statement .symQ := fun _ => by decide
theorem RoundTrip.symR : RoundTrip.Statement .symR := fun _ => by decide
theorem RoundTrip.symS : RoundTrip.Statement .symS := fun _ => by decide
theorem RoundTrip.symT : RoundTrip.Statement .symT := fun _ => by decide
theorem RoundTrip.symV : RoundTrip.Statement .symV := fun _ => by decide
theorem RoundTrip.symW : RoundTrip.Statement .symW := fun _ => by decide
theorem RoundTrip.symX : RoundTrip.Statement .symX := fun _ => by decide
theorem RoundTrip.symY : RoundTrip.Statement .symY := fun _ => by decide
theorem RoundTrip.symZ : RoundTrip.Statement .symZ := fun _ => by decide
theorem RoundTrip.hyphen : RoundTrip.Statement .hyphen := fun _ => by decide
theorem RoundTrip.space : RoundTrip.Statement .space := fun _ => by decide

theorem RoundTrip.other (c : Byte) : RoundTrip.Statement (.other c) := by
  intro h
  simp only [encode, decode, decodeBeat_char]
  exact decodeChar_other c (by simpa [Instr.wellFormed] using h)

end Sys2Proof.Laws
end

