-- ==== Sys2Proof/Laws/Step.lean ====
section
/-! SUPPORT. What executing a word does, in one shape for all commands and one for all characters, and
what a step can do, said once (70_reset_and_hazards.md R245 to R251): later proofs split on
`step_cases` and do not unfold the sequencer. -/

namespace Sys2Proof.Machine

/-- The registers after the accepting step of the command word `w` (70_reset_and_hazards.md R245). -/
def accepted (w : CmdWord) (b : Block) : Block :=
  let b' := b.beginCommand (cmdOp w)
  if cmdOp w = opEnc32 ∧ cmdNull w = 0#1 then
    { b'.loadEncoder ((cmdData w).extractLsb' 0 32) with st := .encIter }
  else if cmdOp w = opTobg ∧ cmdNull w = 0#1 then
    { b'.loadEncoder (group (cmdData w) 0) with fmtUuid := cmdData w, st := .encIter }
  else if cmdOp w = opDec32 ∧ cmdNull w = 0#1 then { b' with st := .decText }
  else if cmdOp w = opFrombg ∧ cmdNull w = 0#1 then { b' with st := .fromBgText }
  else if cmdOp w = opDec32 ∨ cmdOp w = opFrombg then b'.answer .nullInput
  else b'.answer .illegalCommand

/-- The registers after a character of a `FROMBG` text (70_reset_and_hazards.md R249). -/
def fromBgChar (c : Byte) (b : Block) : Block :=
  if c = hyphenChar then b.hyphenStep
  else if c = spaceChar then b.markSpace
  else b.segmentChar c

/-- Executing a command word. -/
theorem exec_decodeCmd (w : CmdWord) (s : State) :
    exec (decodeCmd w) s = whenIdle (accepted w) s := by
  have h8 : cmdOp w = 0#3 ∨ cmdOp w = 1#3 ∨ cmdOp w = 2#3 ∨ cmdOp w = 3#3 ∨ cmdOp w = 4#3 ∨
      cmdOp w = 5#3 ∨ cmdOp w = 6#3 ∨ cmdOp w = 7#3 := by
    generalize cmdOp w = x; revert x; decide
  rcases h8 with h | h | h | h | h | h | h | h <;>
    rcases Laws.null_cases (cmdNull w) with hn | hn <;>
    (have e : accepted w = fun b => accepted w b := rfl
     rw [e]
     simp +decide [decodeCmd, accepted, h, hn, exec, execReservedOp0, execEnc32, execIllegalEnc32Null,
       execDec32, execDec32Null, execTobg, execIllegalTobgNull, execFrombg, execFrombgNull,
       execReservedOp5, execReservedOp6, execReservedOp7])

/-- Executing a symbol row. -/
theorem exec_symbolRow (s : State) : ∀ r ∈ symbolRows,
    exec r.2 s = onText (Block.lookUp r.1) (Block.segmentChar r.1) s := by
  simp only [symbolRows, List.cons_append, List.nil_append, List.forall_mem_cons, exec, execSym0,
    execSym1, execSym2, execSym3, execSym4, execSym5, execSym6, execSym7, execSym8, execSym9,
    execSymA, execSymB, execSymC, execSymD, execSymE, execSymF, execSymG, execSymH, execSymJ,
    execSymK, execSymM, execSymN, execSymP, execSymQ, execSymR, execSymS, execSymT, execSymV,
    execSymW, execSymX, execSymY, execSymZ, true_and]
  simp

/-- Executing a character. -/
theorem exec_decodeChar (c : Byte) (s : State) :
    exec (decodeChar c) s = onText (Block.lookUp c) (fromBgChar c) s := by
  have e : fromBgChar c = fun b => fromBgChar c b := rfl
  rw [e]
  by_cases hh : c = hyphenChar
  · simp [decodeChar, fromBgChar, hh, exec, execHyphen]
  by_cases hs : c = spaceChar
  · simp +decide [decodeChar, fromBgChar, hs, exec, execSpace]
  simp only [decodeChar, fromBgChar, hh, hs, if_false]
  split
  · rename_i r hr
    have hm := List.mem_of_find?_eq_some hr
    have hc : r.1 = c := by simpa using List.find?_some hr
    rw [exec_symbolRow s r hm, hc]
  · rfl

/-- Executing a text beat. -/
theorem exec_decodeBeat (w : BeatWord) (s : State) :
    exec (decodeBeat w) s =
      if beatEot w = 1#1 then execEot (beatChar w) s
      else onText (Block.lookUp (beatChar w)) (fromBgChar (beatChar w)) s := by
  unfold decodeBeat
  split
  · rfl
  · exact exec_decodeChar _ s

/-- The registers after a text beat is taken; `none` only under `RANGE_POLICY = REFUSE`. -/
def afterBeat (p : RangePolicy) (w : BeatWord) (b : Block) : Option Block :=
  if b.st = .decText then
    some (if beatEot w = 1#1 then b.endDecText else b.lookUp (beatChar w))
  else if beatEot w = 1#1 then b.endFromBgText p
  else some (fromBgChar (beatChar w) b)

/-- The steps that end in a next state: from `s`, `Steps s t` lists every possible `t`. -/
inductive Steps (s : State) : State → Prop
  /-- An edge with `rst = 1`. -/
  | reset (cs : List CmdWord) (bs : List BeatWord) (ms : List HostMove)
      (hm : s.host.moves = .reset cs bs :: ms) : Steps s (resetEdge cs bs s)
  /-- `IDLE`, a command is taken (R245). -/
  | accept (w : CmdWord) (hr : s.host.rst = false) (hst : s.blk.st = .idle)
      (hw : s.host.cmdPort = some w) :
      Steps s { s with blk := accepted w s.blk, host := s.host.pass.takeCmd }
  /-- `IDLE` without a command (R246). -/
  | rest (hr : s.host.rst = false) (hst : s.blk.st = .idle) (hw : s.host.cmdPort = none) :
      Steps s s.pass
  /-- `ENC_ITER` (R247). -/
  | encode (b : Block) (hr : s.host.rst = false) (hst : s.blk.st = .encIter)
      (hb : s.blk.encIter = some b) : Steps s { s.pass with blk := b }
  /-- A text state, a beat is taken (R248, R249). -/
  | beat (w : BeatWord) (b : Block) (hr : s.host.rst = false)
      (hst : s.blk.st = .decText ∨ s.blk.st = .fromBgText) (hw : s.host.tinPort = some w)
      (hb : afterBeat s.policy w s.blk = some b) :
      Steps s { s with blk := b, host := s.host.pass.takeTin }
  /-- A text state without a beat. -/
  | waitBeat (hr : s.host.rst = false) (hst : s.blk.st = .decText ∨ s.blk.st = .fromBgText)
      (hw : s.host.tinPort = none) : Steps s s.pass
  /-- `RSP`, the response is taken (R250). -/
  | respond (hr : s.host.rst = false) (hst : s.blk.st = .rsp) (hw : s.host.rspReady = true) :
      Steps s { s with
        blk := { s.blk with outPos := 0#6, st := .txt }
        host := s.host.pass.receive s.blk.response }
  /-- `RSP`, the host is not ready. -/
  | waitRsp (hr : s.host.rst = false) (hst : s.blk.st = .rsp) (hw : s.host.rspReady = false) :
      Steps s s.pass
  /-- `TXT`, a character is taken (R251). -/
  | send (c : Byte) (hr : s.host.rst = false) (hst : s.blk.st = .txt)
      (hw : s.host.toutReady = true) (hlt : s.blk.outPos < s.blk.outLen)
      (hc : s.blk.outBuf[s.blk.outPos.toNat]? = some c) :
      Steps s { s with
        blk := { s.blk with outPos := s.blk.outPos + 1#6 }
        host := s.host.pass.receiveText (.char c) }
  /-- `TXT`, the EOT beat is taken (R251). -/
  | finish (hr : s.host.rst = false) (hst : s.blk.st = .txt) (hw : s.host.toutReady = true)
      (heq : s.blk.outPos = s.blk.outLen) :
      Steps s { s with
        blk := { s.blk with st := .idle }
        host := s.host.pass.receiveText .eot }
  /-- `TXT`, the host is not ready. -/
  | waitTxt (hr : s.host.rst = false) (hst : s.blk.st = .txt) (hw : s.host.toutReady = false) :
      Steps s s.pass

theorem rst_eq_false {h : HostSide}
    (hm : ∀ cs bs ms, h.moves = .reset cs bs :: ms → False) : h.rst = false := by
  unfold HostSide.rst
  split
  · exact absurd ‹_› (hm _ _ _)
  · rfl

/-- The idle edge. -/
theorem idleEdge_steps {s t : State} (hr : s.host.rst = false) (hst : s.blk.st = .idle)
    (h : idleEdge s = .next t) : Steps s t := by
  unfold idleEdge at h
  split at h
  · rename_i w hw
    simp only [decode, exec_decodeCmd] at h
    rw [whenIdle_of_idle (by exact hst)] at h
    cases h; exact .accept w hr hst hw
  · cases h; exact .rest hr hst ‹_›

/-- Executing a beat in a text state. -/
theorem exec_beat_next {w : BeatWord} {s t : State}
    (hst : s.blk.st = .decText ∨ s.blk.st = .fromBgText)
    (h : exec (decodeBeat w) s = .next t) :
    ∃ b, afterBeat s.policy w s.blk = some b ∧ t = { s with blk := b } := by
  rw [exec_decodeBeat] at h
  split at h <;> rename_i he <;> rcases hst with hst | hst
  · simp only [execEot, hst] at h
    exact ⟨s.blk.endDecText, by simp [afterBeat, hst, he], by cases h; rfl⟩
  · simp only [execEot, hst] at h
    split at h
    · exact ⟨_, by simpa [afterBeat, hst, he], by cases h; rfl⟩
    · cases h
  · rw [onText_of_decText hst] at h
    exact ⟨s.blk.lookUp (beatChar w), by simp [afterBeat, hst, he], by cases h; rfl⟩
  · rw [onText_of_fromBgText hst] at h
    exact ⟨fromBgChar (beatChar w) s.blk, by simp [afterBeat, hst, he], by cases h; rfl⟩

/-- The edge in a text state. -/
theorem textEdge_steps {s t : State} (hr : s.host.rst = false)
    (hst : s.blk.st = .decText ∨ s.blk.st = .fromBgText) (h : textEdge s = .next t) :
    Steps s t := by
  unfold textEdge at h
  split at h
  · rename_i w hw
    obtain ⟨b, hb, rfl⟩ := exec_beat_next (by exact hst) h
    exact .beat w b hr hst hw hb
  · cases h; exact .waitBeat hr hst ‹_›

/-- The edge in `RSP`. -/
theorem rspEdge_steps {s t : State} (hr : s.host.rst = false) (hst : s.blk.st = .rsp)
    (h : rspEdge s = .next t) : Steps s t := by
  unfold rspEdge at h
  split at h <;> rename_i hw
  · cases h; exact .respond hr hst hw
  · cases h; exact .waitRsp hr hst (by simpa using hw)

/-- The edge in `TXT`. -/
theorem txtEdge_steps {s t : State} (hr : s.host.rst = false) (hst : s.blk.st = .txt)
    (h : txtEdge s = .next t) : Steps s t := by
  unfold txtEdge at h
  split at h <;> rename_i hw
  · split at h
    · split at h
      · cases h; exact .send _ hr hst hw ‹_› ‹_›
      · cases h
    · split at h
      · cases h; exact .finish hr hst hw ‹_›
      · cases h
  · cases h; exact .waitTxt hr hst (by simpa using hw)

theorem moves_of_rst {h : HostSide} (hr : h.rst = true) :
    ∃ cs bs ms, h.moves = .reset cs bs :: ms := by
  unfold HostSide.rst at hr
  split at hr
  · exact ⟨_, _, _, ‹_›⟩
  · cases hr

/-- The step of a reset edge. -/
theorem step_of_reset {s : State} {cs bs ms} (hm : s.host.moves = .reset cs bs :: ms) :
    step s = .next (resetEdge cs bs s) := by
  unfold step edge; rw [hm]

/-- Any other step is refused when a text beat is on offer that no command owns, and else is the
sequencer's. -/
theorem step_of_rst {s : State} (hr : s.host.rst = false) :
    step s = if s.strayText then .refused .strayText else clockEdge s := by
  unfold step edge
  split
  · rename_i hm
    simp [HostSide.rst, hm] at hr
  · rfl

/-- A text beat is stray only on offer, outside the text states, with no text command to come. -/
theorem strayText_eq_true {s : State} : s.strayText = true ↔
    s.host.tinValid = true ∧ s.blk.tinReady = false ∧ ∀ w ∈ s.host.cmdQ, takesText w = false := by
  simp [State.strayText, and_assoc]

theorem not_stray_of_tinReady {s : State} (h : s.blk.tinReady = true) : s.strayText = false := by
  simp [State.strayText, h]

theorem not_stray_of_silent {s : State} (h : s.host.tinValid = false) : s.strayText = false := by
  simp [State.strayText, h]

theorem not_stray_of_textCommand {s : State} {w : CmdWord} (hm : w ∈ s.host.cmdQ)
    (hw : takesText w = true) : s.strayText = false := by
  simp only [State.strayText, Bool.and_eq_false_iff, Bool.not_eq_false', List.any_eq_true]
  exact .inr ⟨w, hm, hw⟩

/-- A step that answers a next state found no stray text, unless it was a reset. -/
theorem step_next_owned {s t : State} (hr : s.host.rst = false) (h : step s = .next t) :
    s.strayText = false := by
  rw [step_of_rst hr] at h
  split at h
  · cases h
  · exact Bool.eq_false_of_not_eq_true ‹_›

/-- All that a step can do when it answers a next state (`step_next_owned` says what it found on the
text channel). -/
theorem step_cases {s t : State} (h : step s = .next t) : Steps s t := by
  cases hr : s.host.rst with
  | true =>
    obtain ⟨cs, bs, ms, hm⟩ := moves_of_rst hr
    rw [step_of_reset hm] at h
    cases h; exact .reset cs bs ms hm
  | false =>
    have ho := step_next_owned hr h
    rw [step_of_rst hr, ho, if_neg (by decide)] at h
    unfold clockEdge at h
    split at h <;> rename_i hst
    · exact idleEdge_steps hr hst h
    · unfold encIter at h
      split at h
      · cases h; exact .encode _ hr hst ‹_›
      · cases h
    · exact textEdge_steps hr (.inl hst) h
    · exact textEdge_steps hr (.inr hst) h
    · exact rspEdge_steps hr hst h
    · exact txtEdge_steps hr hst h

/-! Withholding a stray beat. -/

@[simp] theorem HostSide.withhold_cmdQ (h : HostSide) : h.withhold.cmdQ = h.cmdQ := rfl
@[simp] theorem HostSide.withhold_cmdHeld (h : HostSide) : h.withhold.cmdHeld = h.cmdHeld := rfl
@[simp] theorem HostSide.withhold_tinQ (h : HostSide) : h.withhold.tinQ = h.tinQ := rfl
@[simp] theorem HostSide.withhold_rst (h : HostSide) : h.withhold.rst = false := rfl
@[simp] theorem HostSide.withhold_tinValid (h : HostSide) : h.withhold.tinValid = false := by
  simp [HostSide.withhold, HostSide.tinValid, HostSide.levels]

/-- What withholding does: either nothing was stray and nothing changes, or the text beat is off the
port and the rest stays. -/
theorem withholdStray_cases (s : State) :
    s.strayText = false ∧ s.withholdStray = s ∨
    s.strayText = true ∧ s.withholdStray = { s with host := s.host.withhold } := by
  unfold State.withholdStray
  split
  · exact .inr ⟨‹_›, rfl⟩
  · exact .inl ⟨Bool.eq_false_of_not_eq_true ‹_›, rfl⟩

theorem withholdStray_owned (s : State) : s.withholdStray.strayText = false := by
  obtain ⟨h, e⟩ | ⟨_, e⟩ := withholdStray_cases s <;> rw [e]
  · exact h
  · exact not_stray_of_silent s.host.withhold_tinValid

end Sys2Proof.Machine
end

