-- ==== Sys2Proof/Tests/Slice0.lean ====
section
/-! SUPPORT. The model's own tests: the well-formedness smoke test, decode tests on words written out
from the spec's encodings, single-step tests on values of the spec's traces and vectors, and for
every obligation with hypotheses a witness that meets them. Each docstring names the source of the
expected values. -/

namespace Sys2Proof.Tests

open Sys2Proof.Machine Sys2Proof.Claims

/-! ## Helpers -/

/-- The machine after reset with these registers. -/
def withBlk (b : Block) : State := { State.reset with blk := b }

/-- The machine after reset, in sequencer state `st`. -/
def inState (st : SeqState) : State := withBlk { Block.reset with st := st }

/-- The outcome is a next state of which `p` holds. -/
def nextHas (o : Host.Outcome State Fault Refusal) (p : State → Bool) : Bool :=
  match o with
  | .next t => p t
  | .fault _ => false
  | .refused _ => false

/-- The outcome is this refusal. -/
def isRefused (o : Host.Outcome State Fault Refusal) (r : Refusal) : Bool :=
  match o with
  | .next _ => false
  | .fault _ => false
  | .refused q => q == r

/-- The characters of a quoted text of the spec, in ASCII. -/
def txt (cs : List Char) : Text := cs.map code

/-! ## Well-formedness (30_encoding.md R77): `OTHER` has no character of another row -/

theorem test_wellFormed_other_symbol_refused : (Instr.other 0x30#8).wellFormed = false := by decide
theorem test_wellFormed_other_hyphen_refused : (Instr.other 0x2D#8).wellFormed = false := by decide
theorem test_wellFormed_other_space_refused : (Instr.other 0x20#8).wellFormed = false := by decide
theorem test_wellFormed_other_letter_I : (Instr.other 0x49#8).wellFormed = true := by decide

/-! ## Decoding -/

/-- Command words `{op, null, data}` written out by 30_encoding.md R70 and R71, all twelve rows. -/
theorem test_decode_commands :
    decode (.cmd 0x10000000000000000000000000000000F#132) = .reservedOp0 1#1 0xF#128 ∧
    decode (.cmd 0x200000000000000000000000089ABCDEF#132) = .enc32 0#96 0x89ABCDEF#32 ∧
    decode (.cmd 0x30000000000000000000000000000001F#132) = .illegalEnc32Null 0x1F#128 ∧
    decode (.cmd 0x400000000000000000000000000000001#132) = .dec32 1#128 ∧
    decode (.cmd 0x500000000000000000000000000000000#132) = .dec32Null 0#128 ∧
    decode (.cmd 0x60000001F000000200000000000000400#132) =
      .tobg 0x0000001F000000200000000000000400#128 ∧
    decode (.cmd 0x700000000000000000000000000000002#132) = .illegalTobgNull 2#128 ∧
    decode (.cmd 0x800000000000000000000000000000003#132) = .frombg 3#128 ∧
    decode (.cmd 0x900000000000000000000000000000000#132) = .frombgNull 0#128 ∧
    decode (.cmd 0xB00000000000000000000000000000004#132) = .reservedOp5 1#1 4#128 ∧
    decode (.cmd 0xC00000000000000000000000000000005#132) = .reservedOp6 0#1 5#128 ∧
    decode (.cmd 0xE00000000000000000000000000000000#132) = .reservedOp7 0#1 0#128 := by
  refine ⟨?_, ?_, ?_, ?_, ?_, ?_, ?_, ?_, ?_, ?_, ?_, ?_⟩ <;> decide

/-- Beats `{eot, char}` (30_encoding.md R73) with the ASCII codes of R76. -/
theorem test_decode_digits :
    [0x030#9, 0x031#9, 0x032#9, 0x033#9, 0x034#9, 0x035#9, 0x036#9, 0x037#9, 0x038#9, 0x039#9].map
      (fun w => decode (.beat w)) =
    [.sym0, .sym1, .sym2, .sym3, .sym4, .sym5, .sym6, .sym7, .sym8, .sym9] := by decide

/-- The letters of the alphabet up to `M`. -/
theorem test_decode_letters_A_to_M :
    [0x041#9, 0x042#9, 0x043#9, 0x044#9, 0x045#9, 0x046#9, 0x047#9, 0x048#9, 0x04A#9, 0x04B#9,
      0x04D#9].map (fun w => decode (.beat w)) =
    [.symA, .symB, .symC, .symD, .symE, .symF, .symG, .symH, .symJ, .symK, .symM] := by decide

/-- The letters of the alphabet from `N` on. -/
theorem test_decode_letters_N_to_Z :
    [0x04E#9, 0x050#9, 0x051#9, 0x052#9, 0x053#9, 0x054#9, 0x056#9, 0x057#9, 0x058#9, 0x059#9,
      0x05A#9].map (fun w => decode (.beat w)) =
    [.symN, .symP, .symQ, .symR, .symS, .symT, .symV, .symW, .symX, .symY, .symZ] := by decide

/-- `I`, `L`, `O`, `U`, `a`, tab, 0x7F and 0x80 are no symbols (20_memory.md R51; vectors D27 to D34,
F38); hyphen, space and EOT. -/
theorem test_decode_other_beats :
    [0x049#9, 0x04C#9, 0x04F#9, 0x055#9, 0x061#9, 0x009#9, 0x07F#9, 0x080#9, 0x02D#9, 0x020#9,
      0x100#9].map (fun w => decode (.beat w)) =
    [.other 0x49#8, .other 0x4C#8, .other 0x4F#8, .other 0x55#8, .other 0x61#8, .other 0x09#8,
      .other 0x7F#8, .other 0x80#8, .hyphen, .space, .eot 0x00#8] := by decide

/-- The opcode table's own numbering: a 4-bit header, a 9-bit beat, and no other length. -/
theorem test_decode_table_words :
    decodeTableWord 8 0x6 = some (.tobg 0#128) ∧ decodeTableWord 8 0xE = some (.reservedOp7 0#1 0#128) ∧
    decodeTableWord 16 0x100 = some (.eot 0#8) ∧ decodeTableWord 16 0x05A = some .symZ ∧
    decodeTableWord 136 0x1F2 = some (.enc32 0#96 0x1F#32) ∧ decodeTableWord 200 0 = none := by
  refine ⟨?_, ?_, ?_, ?_, ?_, ?_⟩ <;> decide

/-! ## The tables and the renderings -/

/-- `ALPHA[31] = 'Z'`, `ALPHA[18] = 'J'` (20_memory.md R50: `I` is left out). -/
theorem test_alpha : alpha 31#5 = code 'Z' ∧ alpha 18#5 = code 'J' := by decide

/-- Vector F2. -/
theorem test_uuidText : uuidText 0x550E8400E29B41D4A716446655440000#128 =
    txt ['5', '5', '0', 'E', '8', '4', '0', '0', '-', 'E', '2', '9', 'B', '-', '4', '1', 'D', '4', '-',
      'A', '7', '1', '6', '-', '4', '4', '6', '6', '5', '5', '4', '4', '0', '0', '0', '0'] := by decide

/-- Vectors E18 and E23, by the loop and by the unrolled form. -/
theorem test_enc32 :
    enc32 0x12345678#32 = txt ['9', '3', '8', 'N', 'K', 'R'] ∧
    enc32Unrolled 0xFFFFFFFF#32 = txt ['3', 'Z', 'Z', 'Z', 'Z', 'Z', 'Z'] := by decide

/-- Vectors D18 (a lost top bit) and D31 (the first of two offenders). -/
theorem test_dec :
    dec (txt ['G', 'Z', 'Z', 'Z', 'Z', 'Z', 'Z', 'Z', 'Z', 'Z', 'Z', 'Z', 'Z']) =
      .acc 0x0FFFFFFFFFFFFFFF#64 ∧
    dec (txt ['1', '2', 'I', '4', 'a']) = .bad 0x49#8 := by decide

/-- Vectors F15 (an empty segment), F27 (`InvalidCharacter` before `ValueOutOfRange`), F32, F11. -/
theorem test_fromBg :
    (fromBgAnswer .mag32 (txt ['A', '-', '-', 'B', '-', 'C'])).map Answer.uuid =
      some (some 0x0000000A000000000000000B0000000C#128) ∧
    fromBgAnswer .mag32 (txt ['Z', 'Z', 'Z', 'Z', 'Z', 'Z', 'Z', '-', '!', '-', '0', '-', '0']) =
      some (.raiseChar 0x21#8) ∧
    fromBgAnswer .mag32 (txt ['4', '0', '0', '0', '0', '0', '0', '-', '0', '-', '0', '-', '0']) =
      some (.raise .valueOutOfRange) ∧
    fromBgAnswer .mag32 (txt ['1', '-', '2', '-', '3', '-', '4', '-', 'x', ' ', 'y']) =
      some (.raise .invalidFormat) := by decide

/-! ## Single steps: the commands (70_reset_and_hazards.md R245) -/

/-- Step 1 of the trace of 95_test_vectors.md section 5.5. -/
theorem test_step_tobg : nextHas (exec (.tobg 0x0000001F000000200000000000000400#128) State.reset)
    (fun t => t.blk.st == .encIter && t.blk.encSh == 0x1F#32 && t.blk.fmtSeg == 0#3 &&
      t.blk.fmtUuid == 0x0000001F000000200000000000000400#128) = true := by decide

/-- Vector E32: `data[127:32]` is ignored. -/
theorem test_step_enc32 : nextHas (exec (.enc32 0xAAAAAAAAAAAAAAAAAAAAAAAA#96 0x1F#32) State.reset)
    (fun t => t.blk.st == .encIter && t.blk.encSh == 0x1F#32 && t.blk.opR == 1#3) = true := by decide

theorem test_step_dec32 : nextHas (exec (.dec32 0#128) State.reset)
    (fun t => t.blk.st == .decText && t.blk.opR == 2#3) = true := by decide

theorem test_step_frombg : nextHas (exec (.frombg 0#128) State.reset)
    (fun t => t.blk.st == .fromBgText && t.blk.opR == 4#3) = true := by decide

/-- Vectors D35 and F40: status 4. -/
theorem test_step_null_texts :
    nextHas (exec (.dec32Null 0#128) State.reset)
      (fun t => t.blk.st == .rsp && t.blk.rStatus == 4#3 && t.blk.opR == 2#3) = true ∧
    nextHas (exec (.frombgNull 0#128) State.reset)
      (fun t => t.blk.st == .rsp && t.blk.rStatus == 4#3 && t.blk.opR == 4#3) = true := by decide

/-- Vectors E33, T12 and program P3 command 4: status 6. -/
theorem test_step_reserved :
    ([Instr.reservedOp0 1#1 0#128, .illegalEnc32Null 0x1F#128, .illegalTobgNull 0#128,
      .reservedOp5 0#1 0#128, .reservedOp6 1#1 0#128, .reservedOp7 0#1 0#128].all fun i =>
        nextHas (exec i State.reset)
          (fun t => t.blk.st == .rsp && t.blk.rStatus == 6#3 && t.blk.outLen == 0#6)) = true := by
  decide

/-! ## Single steps: the text beats -/

/-- Every symbol adds its digit value to 32 times the accumulator, in both text states
(41_base32_decoder.md R133; 42_group_formatter.md R177): from 1 the accumulator is 32 + d. -/
theorem test_step_symbols : (symbolDigits.all fun r =>
    [SeqState.decText, .fromBgText].all fun st =>
      nextHas (exec r.1 (withBlk { Block.reset with st := st, decAcc := 1#64 }))
        (fun t => t.blk.decAcc == BitVec.ofNat 64 (32 + r.2.toNat))) = true := by decide

/-- Trace of 95_test_vectors.md section 5.5, `FROMBG` step 3. -/
theorem test_step_hyphen_frombg :
    nextHas (exec .hyphen (withBlk { Block.reset with st := .fromBgText, decAcc := 0x1F#64 }))
      (fun t => t.blk.fmtSeg == 1#3 && t.blk.decAcc == 0#64 &&
        t.blk.fmtUuid == 0x0000001F000000000000000000000000#128) = true := by decide

/-- Vector D32: a hyphen is an invalid character for `DEC32`. -/
theorem test_step_hyphen_dec32 : nextHas (exec .hyphen (inState .decText))
    (fun t => t.blk.decBad && t.blk.decBadc == 0x2D#8 && t.blk.fmtSeg == 0#3) = true := by decide

/-- Vector F11: a space is marked in the fifth segment too. -/
theorem test_step_space_frombg :
    nextHas (exec .space (withBlk { Block.reset with st := .fromBgText, fmtSeg := 4#3 }))
      (fun t => t.blk.fmtSpace && !t.blk.decBad) = true := by decide

/-- Vector D33. -/
theorem test_step_space_dec32 : nextHas (exec .space (inState .decText))
    (fun t => t.blk.decBad && t.blk.decBadc == 0x20#8 && !t.blk.fmtSpace) = true := by decide

/-- Vector D31: the second offender changes nothing. -/
theorem test_step_other_after_bad :
    nextHas (exec (.other 0x61#8)
      (withBlk { Block.reset with st := .decText, decBad := true, decBadc := 0x49#8 }))
      (fun t => t.blk.decBadc == 0x49#8) = true := by decide

/-- Vector F9: `I` in the fifth segment is ignored. -/
theorem test_step_other_in_fifth_segment :
    nextHas (exec (.other 0x49#8) (withBlk { Block.reset with st := .fromBgText, fmtSeg := 4#3 }))
      (fun t => !t.blk.decBad) = true := by decide

/-- Vectors D10 and D11: the largest value with a hex text, and the smallest without one. -/
theorem test_step_eot_dec32 :
    nextHas (exec (.eot 0#8) (withBlk { Block.reset with st := .decText, decAcc := 0xFFFFFFFF#64 }))
      (fun t => t.blk.rHexvalid && t.blk.outLen == 8#6 && t.blk.outBuf[7] == code 'F') = true ∧
    nextHas (exec (.eot 0#8) (withBlk { Block.reset with st := .decText, decAcc := 0x100000000#64 }))
      (fun t => !t.blk.rHexvalid && t.blk.outLen == 0#6 && t.blk.rStatus == 0#3) = true := by decide

/-- Trace of 95_test_vectors.md section 5.5, `FROMBG` step 11. -/
theorem test_step_eot_frombg :
    nextHas (exec (.eot 0#8) (withBlk { Block.reset with
        st := .fromBgText, fmtSeg := 3#3, decAcc := 0x400#64
        fmtUuid := 0x0000001F000000200000000000000000#128 }))
      (fun t => t.blk.rStatus == 0#3 && t.blk.outLen == 36#6 &&
        t.blk.fmtUuid == 0x0000001F000000200000000000000400#128 &&
        t.blk.outBuf[33] == code '4') = true := by decide +kernel

/-! ## Single steps: the sequencer -/

/-- Step 4 of the worked example of 40_base32_encoder.md section 3: digit 29, `X`. -/
theorem test_step_encoder_digit :
    nextHas (step (withBlk { Block.reset with st := .encIter, opR := 1#3, encSh := 0xAA1D#32 }))
      (fun t => t.blk.encSh == 0x550#32 && t.blk.encSym[0] == code 'X' && t.blk.encLen == 1#3)
      = true := by decide

/-- Step 2 of the `TOBG` trace of 95_test_vectors.md section 5.5: `Z-`, group 1 loaded. -/
theorem test_step_encoder_finish :
    nextHas (step (withBlk { Block.reset with
        st := .encIter, opR := 3#3, encSh := 0x1F#32
        fmtUuid := 0x0000001F000000200000000000000400#128 }))
      (fun t => t.blk.encSh == 0x20#32 && t.blk.fmtSeg == 1#3 && t.blk.outLen == 2#6 &&
        t.blk.outBuf[0] == code 'Z' && t.blk.outBuf[1] == code '-') = true := by decide

/-- The host's query: a table word placed after reset runs as the very next step. -/
theorem test_withFetchWord :
    nextHas (step (State.reset.withFetchWord 8 0x6)) (fun t => t.blk.st == .encIter) = true ∧
    nextHas (step (State.reset.withFetchWord 16 0x05A)) (fun t => t.blk.decAcc == 31#64) = true ∧
    nextHas (step (State.reset.withFetchWord 16 0x100)) (fun t => t.blk.rStatus == 2#3) = true := by
  decide

/-- A text beat that no command owns (70_reset_and_hazards.md R255 H3, R256): in `IDLE`, with an
`ENC32` still to be taken, and while a command's work, response or text is under way; but not with a
`DEC32` still to be taken, and not at a reset edge. -/
theorem test_stray_text :
    isRefused (step { State.reset with host := { HostSide.silent with tinQ := [0x031#9] } })
      .strayText = true ∧
    isRefused (step { State.reset with
      host := { HostSide.silent with tinQ := [0x031#9], cmdQ := [1#3 ++ 0#1 ++ 31#128] } })
      .strayText = true ∧
    ([SeqState.encIter, .rsp, .txt].all fun st =>
      isRefused (step { inState st with host := { HostSide.silent with tinQ := [0x031#9] } })
        .strayText) = true ∧
    nextHas (step { State.reset with
      host := { HostSide.silent with
        tinQ := [0x031#9], cmdQ := [1#3 ++ 0#1 ++ 31#128, 2#3 ++ 0#1 ++ 0#128] } })
      (fun t => t.blk.st == .encIter) = true ∧
    nextHas (step { State.reset with
      host := { HostSide.silent with tinQ := [0x031#9], moves := [.reset [] []] } })
      (fun t => t.host.tinQ == []) = true := by decide

/-- A command placed before a waiting stray beat runs as the very next step (log 5). -/
theorem test_withFetchWord_beside_stray_text :
    nextHas (step (State.withFetchWord
        { State.reset with host := { HostSide.silent with tinQ := [0x031#9], tinHeld := true } } 8 0x6))
      (fun t => t.blk.st == .encIter && t.host.tinQ == [0x031#9]) = true := by decide

/-! ## Witnesses: for each obligation with hypotheses, values that meet all of them together -/

/-- A silent host that has this one command word to send. -/
def offering (w : CmdWord) : State :=
  { State.reset with host := { HostSide.silent with cmdQ := [w] } }

/-- The command word with header `hdr = {op, null}` and data 0. -/
def header (hdr : BitVec 4) : CmdWord := hdr ++ 0#128

/-- A block in `st` whose host offers this text beat. -/
def beatOffered (st : SeqState) (w : BeatWord) : State :=
  { inState st with host := { HostSide.silent with tinQ := [w] } }

/-- A host with nothing on its text channel owes no owner. -/
theorem owned_of_silent (b : Block) : Owned (withBlk b) := .inl rfl

/-- A beat offered early belongs to the `DEC32` still to be taken. -/
theorem owned_early : Owned { State.reset with
    host := { HostSide.silent with cmdQ := [header 0x4#4], tinQ := [0x031#9] } } :=
  .inr (.inr (.inr ⟨_, .head _, by decide, .inl (by decide)⟩))

/-- A host that drives all its ports low at the coming edge. -/
def lowMove : HostMove := .drive ⟨false, false, false, false⟩

/-- The registers of a `TOBG` in its second group, with two characters written. -/
def secondGroup : Block :=
  { Block.reset with
    st := .encIter, opR := 3#3, encSh := 0x20#32, fmtSeg := 1#3, outLen := 2#6
    fmtUuid := 0x0000001F000000200000000000000400#128 }

/-- The registers of an answered `ENC32 0`. -/
def answeredEnc : Block :=
  { Block.reset with st := .rsp, opR := 1#3, outLen := 1#6 }

theorem inv_answeredEnc : answeredEnc.inv :=
  ⟨nofun, nofun, nofun, fun _ => .inl ⟨rfl, .inl (by decide)⟩, nofun⟩

theorem inv_secondGroup : secondGroup.inv := ⟨fun _ => by decide, nofun, nofun, nofun, nofun⟩

theorem witness_DecodeReadsBackEncode :
    (Instr.other 0xFF#8).wellFormed = true ∧ (Instr.tobg 1#128).wellFormed = true := by decide

theorem witness_AlphabetIsTheStringOfTheSpec :
    ('0', Instr.sym0) ∈ alphabetRows[0]? ∧ ('Z', Instr.symZ) ∈ alphabetRows[31]? := by decide

theorem witness_RevIsTheInverseOfAlpha :
    (0x61#8 ≤ (0x61 : Byte) ∧ (0x7A : Byte) ≤ 0x7A#8) ∧ 0x80#8 ≤ (0x80 : Byte) := by decide

theorem witness_AcceptingStepFollowsTheTable :
    ∀ hdr ∈ [0x0#4, 0x2#4, 0x3#4, 0x4#4, 0x5#4, 0x6#4, 0x7#4, 0x8#4, 0x9#4, 0xA#4, 0xF#4],
      (offering (header hdr)).host.rst = false ∧ Owned (offering (header hdr)) ∧
      (offering (header hdr)).blk.st = .idle ∧
      (offering (header hdr)).host.cmdPort = some (header hdr) := by
  refine fun hdr hm => ⟨rfl, .inl rfl, rfl, ?_⟩
  revert hdr; decide

theorem witness_EncodingCommandsAreAccepted : State.reset.blk.st = .idle := rfl
theorem witness_TextCommandsAreAccepted : State.reset.blk.st = .idle := rfl
theorem witness_NullTextIsAnsweredNullInput : State.reset.blk.st = .idle := rfl
theorem witness_ReservedEncodingsAreIllegalCommands : (offering (header 0xF#4)).blk.st = .idle := rfl

theorem witness_CommandsNeverOverlap :
    IsCommand (.dec32 0#128) ∧ (inState .rsp).blk.st ≠ .idle ∧
    (∃ t, step (offering (header 0x4#4)) = .next t ∧ t.host.cmdQ ≠ [header 0x4#4]) ∧
    (∃ t, step (inState .txt) = .next t ∧ t.blk.st = .idle) ∧
    (∃ t, step (inState .rsp) = .next t ∧ t.blk.st = .txt) :=
  ⟨⟨_, rfl⟩, by decide, ⟨_, rfl, by decide⟩, ⟨_, rfl, rfl⟩, ⟨_, rfl, rfl⟩⟩

theorem witness_BeatsAreTakenOnlyInTextStates :
    IsBeat .sym0 ∧ (inState .idle).blk.st ≠ .decText ∧ (inState .idle).blk.st ≠ .fromBgText ∧
    (∃ t, step (beatOffered .decText 0x100#9) = .next t ∧ t.host.tinQ ≠ [0x100#9]) ∧
    (∃ t, step (beatOffered .fromBgText 0x030#9) = .next t ∧ t.host.tinQ ≠ [0x030#9]) :=
  ⟨⟨_, rfl⟩, by decide, by decide, ⟨_, rfl, by decide⟩, ⟨_, rfl, by decide⟩⟩

theorem witness_SymbolStepOfDec32 :
    (Instr.symZ, 31#5) ∈ symbolDigits ∧
    (withBlk { Block.reset with st := .decText, decAcc := BitVec.allOnes 64 }).blk.decBad = false := by
  decide

theorem witness_InvalidCharacterStepOfDec32 :
    IsCharacter .hyphen 0x2D#8 ∧ IsCharacter .space 0x20#8 ∧ IsCharacter (.other 0x80#8) 0x80#8 ∧
    (inState .decText).blk.decBad = false ∧ (∀ d, alpha d ≠ 0x2D#8) ∧ (∀ d, alpha d ≠ 0x80#8) ∧
    (withBlk { Block.reset with st := .decText, decBad := true }).blk.decBad = true :=
  ⟨⟨rfl, rfl⟩, ⟨rfl, rfl⟩, ⟨by decide, rfl⟩, rfl, by decide, by decide, rfl⟩

theorem witness_EotStepOfDec32 :
    (inState .decText).blk.st = .decText ∧ ¬ Wide 0xFFFFFFFF#64 ∧ Wide 0x100000000#64 ∧
    (withBlk { Block.reset with st := .decText, decBad := true }).blk.decBad = true := by
  refine ⟨rfl, ?_, ?_, rfl⟩ <;> unfold Wide <;> decide

theorem witness_SpaceStepOfFrombg : (inState .fromBgText).blk.st = .fromBgText := rfl

theorem witness_HyphenStepOfFrombg :
    (withBlk { Block.reset with st := .fromBgText, fmtSeg := 3#3 }).blk.fmtSeg.toNat < 4 ∧
    (withBlk { Block.reset with st := .fromBgText, fmtSeg := 4#3 }).blk.fmtSeg.toNat = 4 := by decide

theorem witness_IgnoredCharactersOfFrombg :
    IsCharacter (.other 0x21#8) 0x21#8 ∧ (0x21#8 : Byte) ≠ 0x20#8 ∧ (0x21#8 : Byte) ≠ 0x2D#8 ∧
    (withBlk { Block.reset with st := .fromBgText, fmtSeg := 4#3 }).blk.fmtSeg.toNat = 4 :=
  ⟨⟨by decide, rfl⟩, by decide, by decide, rfl⟩

theorem witness_LookupStepOfFrombg :
    IsCharacter .symZ 0x5A#8 ∧ IsCharacter (.other 0x49#8) 0x49#8 ∧ alpha 31#5 = 0x5A#8 ∧
    (∀ d, alpha d ≠ 0x49#8) ∧
    (withBlk { Block.reset with st := .fromBgText, fmtSeg := 3#3 }).blk.decBad = false ∧
    (withBlk { Block.reset with st := .fromBgText, decBad := true }).blk.fmtSeg.toNat < 4 :=
  ⟨⟨rfl, rfl⟩, ⟨by decide, rfl⟩, by decide, by decide, rfl, by decide⟩

/-- The five statuses that the `EOT` of a `FROMBG` text can give under `MAG32`. -/
theorem witness_EotStepOfFrombg :
    ([{ Block.reset with st := .fromBgText, fmtSpace := true },
      { Block.reset with st := .fromBgText, fmtSeg := 2#3 },
      { Block.reset with st := .fromBgText, fmtSeg := 3#3, decBad := true },
      { Block.reset with st := .fromBgText, fmtSeg := 3#3, decAcc := 0x100000000#64 },
      { Block.reset with st := .fromBgText, fmtSeg := 4#3, decAcc := 0x100000000#64 }].map fun b =>
        ((withBlk b).policy, (withBlk b).blk.st, fromBgStatus .mag32 b.commitLast)) =
    [(.mag32, .fromBgText, some .invalidFormat), (.mag32, .fromBgText, some .invalidFormat),
     (.mag32, .fromBgText, some .invalidCharacter), (.mag32, .fromBgText, some .valueOutOfRange),
     (.mag32, .fromBgText, some .ok)] := by decide

/-- Under `LEN7` a long and a wide last segment, under `REFUSE` a wide one that is refused and a wide
one that is answered because the text holds a space, and under both an `OK`. -/
theorem witness_EotUnderTheOtherPolicies :
    ([(.len7, { Block.reset with st := .fromBgText, fmtSeg := 3#3, segSyms := 8 }),
      (.len7, { Block.reset with st := .fromBgText, fmtSeg := 3#3, decAcc := 0x100000000#64 }),
      (.refuse, { Block.reset with st := .fromBgText, fmtSeg := 3#3, decAcc := 0x100000000#64 }),
      (.refuse, { Block.reset with st := .fromBgText, fmtSeg := 4#3, fmtWide := true, fmtSpace := true }),
      (.refuse, { Block.reset with st := .fromBgText, fmtSeg := 4#3 })].map
        fun (c : RangePolicy × Block) => (c.2.st, fromBgStatus c.1 c.2.commitLast)) =
    [(.fromBgText, some .valueOutOfRange), (.fromBgText, some .ok), (.fromBgText, none),
     (.fromBgText, some .invalidFormat), (.fromBgText, some .ok)] := by decide

/-- Vectors F35 (long but in range) and F32 (seven characters but wide). -/
theorem witness_OtherPoliciesOfFrombg :
    (0x20#8 : Byte) ∉ txt ['4', '0', '0', '0', '0', '0', '0', '-', '-', '-'] ∧
    segments (txt ['4', '0', '0', '0', '0', '0', '0', '-', '-', '-']) =
      [txt ['4', '0', '0', '0', '0', '0', '0'], [], [], []] ∧
    dec (txt ['4', '0', '0', '0', '0', '0', '0']) = .acc 0x100000000#64 ∧
    dec (txt ['0', '3', 'Z', 'Z', 'Z', 'Z', 'Z', 'Z']) = .acc 0xFFFFFFFF#64 ∧ dec [] = .acc 0#64 := by
  decide

theorem witness_DigitStepOfTheEncoder :
    (withBlk { Block.reset with st := .encIter, encSh := 0x20#32, encLen := 6#3 }).host.rst = false ∧
    Owned (withBlk { Block.reset with st := .encIter, encSh := 0x20#32, encLen := 6#3 }) ∧
    (6#3).toNat < 7 ∧ (0x20#32) >>> 5 ≠ 0#32 :=
  ⟨rfl, owned_of_silent _, by decide, by decide⟩

/-- The largest `out_len` that the premise admits, and the group that ends the command. -/
theorem witness_FinishOfTheEncoder :
    (withBlk { Block.reset with
      st := .encIter, opR := 3#3, fmtSeg := 3#3, encLen := 6#3, outLen := 28#6 }).host.rst = false ∧
    Owned (withBlk { Block.reset with
      st := .encIter, opR := 3#3, fmtSeg := 3#3, encLen := 6#3, outLen := 28#6 }) ∧
    (6#3).toNat < 7 ∧ (0x1F#32) >>> 5 = 0#32 ∧ (3#3).toNat ≤ 3 ∧ (28#6).toNat + (6#3).toNat + 2 ≤ 36 ∧
    (3#3 ≠ 1#3 ∧ 0#3 ≠ 3#3) :=
  ⟨rfl, owned_of_silent _, by decide⟩

theorem witness_EncoderNeedsNothingFromTheHost :
    (withBlk secondGroup).inv ∧ (withBlk secondGroup).blk.st = .encIter ∧
    (withBlk secondGroup).host.noReset ∧
    ((withBlk secondGroup).host.tinQ = [] ∨ SomeText (withBlk secondGroup).host.cmdQ) ∧
    { HostSide.silent with moves := [lowMove] }.noReset :=
  ⟨inv_secondGroup, rfl, nofun, .inl rfl, by simp [HostSide.noReset, lowMove]⟩

theorem witness_StepRunsTheDecodedInstruction :
    (offering (header 0x4#4)).host.rst = false ∧ Owned (offering (header 0x4#4)) ∧
    (offering (header 0x4#4)).host.cmdPort = some (header 0x4#4) ∧
    decode (.cmd (header 0x4#4)) = .dec32 0#128 ∧
    (beatOffered .fromBgText 0x05A#9).host.tinPort = some 0x05A#9 ∧ decode (.beat 0x05A#9) = .symZ :=
  ⟨rfl, .inl rfl, by decide⟩

theorem witness_FetchWordRunsNext :
    decodeTableWord 8 0x8 = some (.frombg 0#128) ∧ decodeTableWord 16 0x02D = some .hyphen ∧
    IsCommand (.frombg 0#128) ∧ IsBeat .hyphen :=
  ⟨by decide, by decide, ⟨_, rfl⟩, ⟨_, rfl⟩⟩

theorem witness_IdleRestsAndStrayTextIsRefused :
    State.reset.host.cmdPort = none ∧ Owned State.reset ∧
    { HostSide.silent with cmdQ := [header 0x4#4], moves := [lowMove] }.cmdPort = none ∧
    (beatOffered .idle 0x030#9).host.rst = false ∧ ¬ Owned (beatOffered .idle 0x030#9) ∧
    ¬ Owned (beatOffered .rsp 0x030#9) := by
  refine ⟨rfl, .inl rfl, rfl, rfl, ?_, ?_⟩ <;>
    rintro (h | h | h | ⟨_, h, _⟩) <;> first | exact absurd h (by decide) | cases h

theorem witness_ResetEdgeGoesToIdle :
    { HostSide.silent with moves := [.reset [header 0x4#4] [0x100#9]] }.moves =
      .reset [header 0x4#4] [0x100#9] :: [] := rfl

theorem witness_ResponseStep :
    (inState .rsp).host.rst = false ∧ Owned (inState .rsp) ∧ (inState .rsp).host.rspReady = true ∧
    { HostSide.silent with moves := [lowMove] }.rspReady = false :=
  ⟨rfl, owned_of_silent _, rfl, rfl⟩

theorem witness_TextOutputStep :
    (inState .txt).host.rst = false ∧ Owned (inState .txt) ∧ (inState .txt).host.toutReady = true ∧
    { HostSide.silent with moves := [lowMove] }.toutReady = false ∧
    (35#6).toNat < 36 ∧ (35#6).toNat < (36#6).toNat ∧ (inState .txt).blk.outPos = 0#6 :=
  ⟨rfl, owned_of_silent _, by decide⟩

theorem witness_TransitionsFollowTheSummary : ∃ t, step (inState .rsp) = .next t := ⟨_, rfl⟩

theorem witness_OffersAreHeld :
    (∃ t, step (inState .rsp) = .next t) ∧
    { HostSide.silent with cmdQ := [header 0x4#4] }.cmdPort = some (header 0x4#4) ∧
    { HostSide.silent with tinQ := [0x030#9] }.tinPort = some 0x030#9 ∧
    (inState .rsp).blk.cmdReady = false ∧ (inState .rsp).blk.tinReady = false ∧
    (inState .rsp).blk.rspValid = true ∧ (inState .txt).blk.toutValid = true ∧
    { HostSide.silent with moves := [lowMove] }.rspReady = false ∧
    { HostSide.silent with moves := [lowMove] }.toutReady = false :=
  ⟨⟨_, rfl⟩, by decide, by decide, rfl, rfl, rfl, rfl, rfl, rfl⟩

/-- One block for each row of the table of 30_encoding.md R74. -/
theorem witness_ResponseFieldsHaveTheirValues :
    answeredEnc.inv ∧
    { Block.reset with
      st := .rsp, opR := 2#3, decAcc := 0xFFFFFFFF#64, rHexvalid := true, outLen := 8#6 }.inv ∧
    { Block.reset with st := .rsp, opR := 2#3, decAcc := 0x100000000#64 }.inv ∧
    { Block.reset with st := .rsp, opR := 3#3, outLen := 31#6 }.inv ∧
    { Block.reset with st := .rsp, opR := 4#3, outLen := 36#6 }.inv ∧
    { Block.reset with st := .rsp, opR := 4#3, rStatus := 3#3 }.inv :=
  ⟨inv_answeredEnc,
    ⟨nofun, nofun, nofun, fun _ => .inl ⟨rfl, .inr (.inl (by decide))⟩, nofun⟩,
    ⟨nofun, nofun, nofun, fun _ => .inl ⟨rfl, .inr (.inl (by decide))⟩, nofun⟩,
    ⟨nofun, nofun, nofun, fun _ => .inl ⟨rfl, .inr (.inr (.inl (by decide)))⟩, nofun⟩,
    ⟨nofun, nofun, nofun, fun _ => .inl ⟨rfl, .inr (.inr (.inr (by decide)))⟩, nofun⟩,
    ⟨nofun, nofun, nofun, fun _ => .inr ⟨rfl, .inl (by decide)⟩, nofun⟩⟩

theorem witness_StepKeepsTheInvariant :
    (withBlk secondGroup).inv ∧ ∃ t, step (withBlk secondGroup) = .next t :=
  ⟨inv_secondGroup, _, rfl⟩

theorem witness_InvariantStatesNeverFault : (withBlk answeredEnc).inv := inv_answeredEnc

theorem witness_DutifulRunsGoOn :
    (offering (header 0x6#4)).inv ∧ (offering (header 0x6#4)).dutiful ∧
    (beatOffered .fromBgText 0x100#9).dutiful ∧ (offering (header 0x6#4)).policy ≠ .refuse :=
  ⟨⟨nofun, nofun, nofun, nofun, nofun⟩, by decide, by decide, by decide⟩

theorem witness_InvalidLengthIsNeverProduced :
    (withBlk answeredEnc).inv ∧
    ∃ t, step (withBlk answeredEnc) = .next t ∧ answeredEnc.response ∈ t.host.responses :=
  ⟨inv_answeredEnc, _, rfl, by decide⟩

theorem witness_ReceivedBeatsStay : ∃ t, step (inState .txt) = .next t := ⟨_, rfl⟩

theorem witness_EncodedTextClosedForm :
    6 < encLength 0x40000000#32 ∧ 0x40000000#32 ≠ 0#32 ∧ encLength 0xFFFFFFFF#32 ≤ 7 := by decide

theorem witness_DigitsRebuildTheValue :
    (0x20#32 >>> (5 * 0)) >>> 5 ≠ 0#32 ∧ (0xC0000000#32 >>> (5 * 6)) >>> 5 = 0#32 ∧ 5 ≤ 5 := by decide

theorem witness_EncodedTextIsCanonical :
    (enc32 0x40000000#32).length = 7 ∧ (enc32 0#32).head? = some 0x30#8 ∧ 0x30#8 ∈ enc32 0#32 := by
  decide

theorem witness_DecodingInvertsEncoding : enc32 0x1F#32 = enc32 31#32 := rfl

theorem witness_DecodeIsPositionalModulo :
    (List.replicate 12 31#5).length ≤ 12 ∧ (List.replicate 12 31#5).length = 12 ∧
    (15#5).toNat < 16 ∧ ¬ (16#5).toNat < 16 := by decide

theorem witness_UuidTextLayout : 23 ∈ [8, 13, 18, 23] ∧ 31 < 32 ∧ hyphensBefore 31 = 4 ∧
    hyphensBefore 7 = 0 ∧ hyphensBefore 8 = 1 ∧ hyphensBefore 12 = 2 ∧ hyphensBefore 19 = 3 := by
  decide

theorem witness_GroupsAreEightHexDigits : 3 < 4 ∧ 7 < 8 := by decide

/-- Vector T1. -/
theorem witness_TobgTextShape :
    txt ['0'] ∈ segments (tobgText 0#128) ∧ 0x2D#8 ∈ tobgText 0#128 := by decide

theorem witness_TobgIsInjective : 0#128 ≠ 1#128 := by decide

/-- Vectors F1 and F19: both sides of the equivalence occur. -/
theorem witness_TextsAcceptedByFrombg :
    (fromBgAnswer .mag32 (txt ['0', '-', '0', '-', '0', '-', '0'])).map Answer.status = some .ok ∧
    (fromBgAnswer .mag32 (txt ['0', '-', '0', '-', '0'])).map Answer.status =
      some .invalidFormat := by decide

/-- Headers of reserved encodings, and texts with each fault alone (vectors F14, F32). -/
theorem witness_StatusPriority :
    (cmdNull (header 0x5#4) = 1#1 ∧ cmdOp (header 0x5#4) = 2#3) ∧
    (cmdNull (header 0x3#4) = 1#1 ∧ cmdOp (header 0x3#4) = 1#3) ∧
    cmdOp (header 0xF#4) ∈ [0#3, 5#3, 6#3, 7#3] ∧
    (0x20#8 : Byte) ∈ txt [' '] ∧ (txt ['-', '-']).count 0x2D#8 < 3 ∧
    ((0x20#8 : Byte) ∉ txt ['!', '-', '-', '-'] ∧ 3 ≤ (txt ['!', '-', '-', '-']).count 0x2D#8 ∧
      checkedChars (txt ['!', '-', '-', '-']) = [] ++ 0x21#8 :: [] ∧ charClass 0x21#8 ≠ .sym) ∧
    ((∀ x ∈ checkedChars (txt ['4', '0', '0', '0', '0', '0', '0', '-', '-', '-']),
        charClass x = .sym) ∧
      txt ['4', '0', '0', '0', '0', '0', '0'] ∈
        (segments (txt ['4', '0', '0', '0', '0', '0', '0', '-', '-', '-'])).take 4 ∧
      dec (txt ['4', '0', '0', '0', '0', '0', '0']) = .acc 0x100000000#64) ∧
    dec (txt ['I']) = .bad 0x49#8 := by decide

/-- Vectors F13 and F11: the smallest text with three hyphens. -/
theorem witness_TrailingSegmentsAreIgnored :
    3 ≤ (txt ['-', '-', '-']).count 0x2D#8 ∧ (0x20#8 : Byte) ∉ txt ['!'] ∧
    (0x20#8 : Byte) ∈ txt ['x', ' ', 'y'] := by decide

/-- A `DEC32` with its text, a `TOBG`, and a `FROMBG` that `REFUSE` gives no meaning. -/
theorem witness_StepLevelRefinesOperationLevel :
    (offering (header 0x6#4)).blk.st = .idle ∧ (offering (header 0x6#4)).host.noReset ∧
    (offering (header 0x6#4)).host.cmdQ = header 0x6#4 :: [] ∧
    (offering (header 0x6#4)).host.tinQ =
      (if takesText (header 0x6#4) then textBeats 0#8 [] else []) ++ [] ∧
    [0x05A#9, 0x1FF#9, 0x030#9] =
      (if takesText (header 0x4#4) then textBeats 0xFF#8 (txt ['Z']) else []) ++ [0x030#9] ∧
    SomeText [header 0x4#4] ∧
    (answerTo .mag32 (header 0x4#4) (txt ['Z'])).isSome = true ∧
    answerTo .refuse (header 0x8#4) (txt ['4', '0', '0', '0', '0', '0', '0', '-', '-', '-']) = none :=
  ⟨rfl, nofun, rfl, by decide, by decide, ⟨_, .head _, by decide, .inl (by decide)⟩, by decide, by decide⟩

theorem witness_WholeProgramsAreAnswered :
    State.reset.blk.st = .idle ∧ State.reset.host.noReset ∧ State.reset.policy ≠ .refuse :=
  ⟨rfl, nofun, by decide⟩

theorem witness_NothingIsCarriedOver :
    (withBlk { answeredEnc with st := .idle }).blk.st = .idle ∧ State.reset.blk.st = .idle ∧
    (withBlk { answeredEnc with st := .idle }).blk ≠ State.reset.blk ∧
    (withBlk { answeredEnc with st := .idle }).host = State.reset.host ∧
    (withBlk { answeredEnc with st := .idle }).policy = State.reset.policy := by decide

end Sys2Proof.Tests
end

section
/-! No state of the invariant faults. A command or a character never faults in any state, so the
question is only the `ENC_ITER` step, where a finished value must find room in the result, and the
`TXT` step, where `out_pos` must be in range. -/

namespace Sys2Proof.Machine

/-! ## Edges that fault in no state -/

theorem whenIdle_ne_fault (g : Block → Block) (s : State) (f : Fault) : whenIdle g s ≠ .fault f := by
  rw [whenIdle_eq]; nofun

theorem onText_ne_fault (g k : Block → Block) (s : State) (f : Fault) : onText g k s ≠ .fault f := by
  cases h : s.blk.st with
  | decText => rw [onText_of_decText h]; nofun
  | fromBgText => rw [onText_of_fromBgText h]; nofun
  | idle | encIter | rsp | txt =>
    rw [onText_of_not_ready (by simp [Block.tinReady, h])]; nofun

/-- An EOT beat is refused under `REFUSE` (42_group_formatter.md R184), but it never faults. -/
theorem execEot_ne_fault (c : Byte) (s : State) (f : Fault) : execEot c s ≠ .fault f := by
  unfold execEot
  split
  case h_2 => split <;> nofun
  all_goals nofun

theorem idleEdge_ne_fault (s : State) (f : Fault) : idleEdge s ≠ .fault f := by
  unfold idleEdge
  split
  · rw [decode, exec_decodeCmd]; exact whenIdle_ne_fault _ _ f
  · nofun

theorem textEdge_ne_fault (s : State) (f : Fault) : textEdge s ≠ .fault f := by
  unfold textEdge
  split
  · rw [decode, exec_decodeBeat]
    split
    · exact execEot_ne_fault _ _ f
    · exact onText_ne_fault _ _ _ f
  · nofun

theorem rspEdge_ne_fault (s : State) (f : Fault) : rspEdge s ≠ .fault f := by
  unfold rspEdge; split <;> nofun

/-! ## The encoder's step has room (10_state.md R35, R38, R42) -/

theorem Block.encText_length_le (b : Block) : b.encText.length ≤ 7 := by
  simp [Block.encText]

/-- A last value has room for its seven symbols in `out_buf[0..35]`. -/
theorem Block.finishValue_isSome_of_last {b : Block} (hl : b.lastValue = true)
    (hn : b.outLen.toNat ≤ 29) : b.finishValue.isSome = true := by
  have ht := b.encText_length_le
  rw [Block.finishValue, if_pos hl, if_pos (by omega)]; rfl

/-- Groups 0 to 2 have room for their seven symbols and a hyphen, and a next group. -/
theorem Block.finishValue_isSome_of_group {b : Block} (hl : b.lastValue = false)
    (hg : b.fmtSeg < 3#3) (hn : b.outLen.toNat ≤ 28) : b.finishValue.isSome = true := by
  have ht := b.encText_length_le
  rw [Block.finishValue, if_neg (by simp [hl]), if_pos ⟨hg, by omega⟩]; rfl

/-- The digit step leaves enough room to finish: before group `g` the result holds at most `8 g`
characters. -/
theorem Block.encoding.finishValue_isSome {b : Block} (h : b.encoding) :
    b.encDigit.finishValue.isSome = true := by
  obtain ⟨-, -, hcmd⟩ := h
  obtain ⟨hn, hg⟩ : b.outLen.toNat ≤ 8 * b.fmtSeg.toNat ∧ b.fmtSeg.toNat ≤ 3 := by
    obtain ⟨-, hg, hn⟩ | ⟨-, hg, -, hn⟩ := hcmd
    · simp [hg, hn]
    · exact ⟨hn, hg⟩
  cases hl : b.encDigit.lastValue with
  | true => exact finishValue_isSome_of_last hl (by rw [encDigit_outLen]; omega)
  | false =>
    have hne : b.fmtSeg ≠ 3#3 := fun h3 => by simp [Block.lastValue, h3] at hl
    have hlt : b.fmtSeg < 3#3 := by bv_omega
    exact finishValue_isSome_of_group hl hlt (by rw [encDigit_outLen]; bv_omega)

/-- Progress of the encoder. -/
theorem Block.encoding.encIter_isSome {b : Block} (h : b.encoding) : b.encIter.isSome = true := by
  have hfinish := h.finishValue_isSome
  obtain ⟨hlen, -, -⟩ := h
  have hne : b.encLen ≠ 7#3 := by bv_omega
  rw [Block.encIter, if_neg hne]
  split
  · exact hfinish
  · rfl

theorem encIter_ne_fault {s : State} (h : s.blk.encoding) (f : Fault) : encIter s ≠ .fault f := by
  obtain ⟨b, hb⟩ := Option.isSome_iff_exists.mp h.encIter_isSome
  rw [encIter, hb]; nofun

/-! ## The result is sent in range (10_state.md R42) -/

/-- A result text fits `out_buf[0..35]`. -/
theorem Block.answered.outLen_le {b : Block} (h : b.answered) : b.outLen.toNat ≤ 36 := by
  obtain ⟨-, ⟨-, -, hn⟩ | ⟨-, -, hn⟩ | ⟨-, -, hn⟩ | ⟨-, hn⟩⟩ | ⟨hn, -⟩ := h
  · exact hn.trans (by decide)
  · rw [hn]; split <;> decide
  · exact hn.trans (by decide)
  · exact hn.le
  · omega

theorem txtEdge_ne_fault {s : State} (hn : s.blk.outLen.toNat ≤ 36)
    (hp : s.blk.outPos.toNat ≤ s.blk.outLen.toNat) (f : Fault) : txtEdge s ≠ .fault f := by
  unfold txtEdge
  split
  · split
    · rename_i hlt
      have hpos : s.blk.outPos.toNat < 36 := by bv_omega
      rw [Vector.getElem?_eq_getElem hpos]; nofun
    · rename_i hge
      rw [if_pos (by bv_omega)]; nofun
  · nofun

/-! ## The step -/

theorem clockEdge_ne_fault {s : State} (h : s.inv) (f : Fault) : clockEdge s ≠ .fault f := by
  obtain ⟨henc, -, -, -, htxt⟩ := h
  unfold clockEdge
  split <;> rename_i hst
  · exact idleEdge_ne_fault s f
  · exact encIter_ne_fault (s := s.pass) (henc hst) f
  · exact textEdge_ne_fault s f
  · exact textEdge_ne_fault s f
  · exact rspEdge_ne_fault s f
  · obtain ⟨hans, hpos⟩ := htxt hst
    exact txtEdge_ne_fault hans.outLen_le hpos f

/-- Settles O39: only the clock edge can fault, and in a state of the invariant it does not. -/
theorem invariantStatesNeverFault : Obligations.InvariantStatesNeverFault := by
  intro s f h
  cases hr : s.host.rst with
  | true =>
    obtain ⟨cs, bs, ms, hm⟩ := moves_of_rst hr
    rw [step_of_reset hm]; nofun
  | false =>
    rw [step_of_rst hr]
    split
    · nofun
    · exact clockEdge_ne_fault h f

end Sys2Proof.Machine
end

section
/-! More of what the shared operations do, each said once: how many symbols and characters they
make, one equation per case of the EOT of a text, and a run by its first step. -/

namespace Sys2Proof.Machine

/-! ## The result text and the encoder -/

/-- The result takes a text that it has room for (10_state.md R42). -/
theorem Block.appendText_outLen_toNat {b : Block} {t : Text}
    (h : b.outLen.toNat + t.length < 64) :
    (b.appendText t).outLen.toNat = b.outLen.toNat + t.length := by
  simp [BitVec.toNat_add, Nat.mod_eq_of_lt h]

/-- Writing a text that fits keeps what stands before it. -/
theorem writeText_toList_take (buf : Vector Byte 36) (pos : Nat) (t : Text)
    (h : pos + t.length ≤ 36) :
    (writeText buf pos t).toList.take (pos + t.length) = buf.toList.take pos ++ t := by
  apply List.ext_getElem
  · simp; omega
  intro k hk _
  have hk : k < pos + t.length := by simp at hk; omega
  by_cases hlt : k < pos
  · rw [List.getElem_append_left (by simp; omega)]
    simpa using writeText_getElem_of_lt buf pos t k (by omega) hlt
  · obtain ⟨j, rfl⟩ := Nat.exists_eq_add_of_le (Nat.not_lt.mp hlt)
    rw [List.getElem_append_right (by simp)]
    simpa [Nat.min_eq_left (show pos ≤ 36 by omega)]
      using writeText_getElem buf pos t j (by omega) (by omega)

/-- The digit step makes the symbols one more, up to seven (10_state.md R34, R35). -/
theorem Block.encDigit_encText_length {b : Block} (h : b.encLen.toNat ≤ 6) :
    b.encDigit.encText.length = b.encLen.toNat + 1 := by
  simp [Block.encText, BitVec.toNat_add]
  omega

/-- The digit step puts its symbol in front of those already made (40_base32_encoder.md R105). -/
theorem Block.encText_encDigit {b : Block} (h : b.encLen ≠ 7#3) :
    b.encDigit.encText = alpha (b.encSh.extractLsb' 0 5) :: b.encText := by
  have hlen : b.encLen.toNat ≤ 6 := by bv_omega
  have hnext : (b.encLen + 1#3).toNat = b.encLen.toNat + 1 := by bv_omega
  simp only [encText, encDigit_encSym, encDigit_encLen, hnext]
  apply List.ext_getElem
  · simp; omega
  intro k hk _
  cases k with
  | zero => rfl
  | succ k =>
    have hk : k < 6 := by simp at hk; omega
    simp only [List.getElem_take, List.getElem_cons_succ, Vector.getElem_toList]
    interval_cases k <;> rfl

/-! ## The text states -/

/-- `lookUp` does not touch the flag of `RANGE_POLICY = LEN7`. -/
theorem Block.lookUp_fmtLong (b : Block) (x : Byte) : (b.lookUp x).fmtLong = b.fmtLong := by
  obtain ⟨-, h⟩ | ⟨-, -, h⟩ | ⟨-, i, -, h⟩ := b.lookUp_cases x <;> rw [h]

/-! The three cases of the EOT of a `DEC32` text (41_base32_decoder.md R136). -/

theorem Block.endDecText_of_bad {b : Block} (hbad : b.decBad = true) :
    b.endDecText = b.answer .invalidCharacter := by
  simp [Block.endDecText, hbad]

theorem Block.endDecText_of_wide {b : Block} (hbad : b.decBad = false)
    (hwide : isWide b.decAcc = true) :
    b.endDecText = { b with outLen := 0#6, rHexvalid := false }.answer .ok := by
  simp [Block.endDecText, hbad, hwide]

theorem Block.endDecText_of_fits {b : Block} (hbad : b.decBad = false)
    (hwide : isWide b.decAcc = false) : b.endDecText =
      { b.setText (hex8 (b.decAcc.extractLsb' 0 32)) with rHexvalid := true }.answer .ok := by
  simp [Block.endDecText, hbad, hwide]

theorem Block.endDecText_st (b : Block) : b.endDecText.st = .rsp := by
  unfold Block.endDecText; split_ifs <;> rfl

/-- All that committing the last segment can do to the registers. -/
theorem Block.commitLast_cases (b : Block) :
    (b.fmtSeg < 4#3 ∧ b.commitLast = b.commit b.fmtSeg.toNat) ∨
    (¬ b.fmtSeg < 4#3 ∧ b.commitLast = b) := by
  by_cases h : b.fmtSeg < 4#3 <;> simp [Block.commitLast, h]

/-- Committing the last segment writes `fmt_uuid`, `fmt_wide` and `fmtLong` only. -/
theorem Block.commitLast_frame (b : Block) :
    b.commitLast.opR = b.opR ∧ b.commitLast.outLen = b.outLen ∧
    b.commitLast.outBuf = b.outBuf ∧ b.commitLast.fmtSeg = b.fmtSeg ∧
    b.commitLast.fmtSpace = b.fmtSpace ∧ b.commitLast.decBad = b.decBad ∧
    b.commitLast.decBadc = b.decBadc := by
  obtain ⟨-, h⟩ | ⟨-, h⟩ := b.commitLast_cases <;> simp [h]

theorem rangeStatus_cases {p : RangePolicy} {wide long : Bool} {e : Status}
    (h : rangeStatus p wide long = some e) : e = .ok ∨ e = .valueOutOfRange := by
  unfold rangeStatus at h
  split at h <;> split_ifs at h <;> cases h <;> simp

/-- The statuses that the flags of a `FROMBG` text can choose, and what `OK` and `InvalidCharacter`
say about the text (42_group_formatter.md R178). -/
theorem fromBgStatus_cases {p : RangePolicy} {b : Block} {e : Status}
    (h : fromBgStatus p b = some e) :
    (e = .ok ∧ ¬ b.fmtSeg < 3#3) ∨ e = .invalidFormat ∨
    (e = .invalidCharacter ∧ b.decBad = true) ∨ e = .valueOutOfRange := by
  unfold fromBgStatus at h
  split_ifs at h with hspace hseg hbad
  · exact .inr (.inl (Option.some.inj h).symm)
  · exact .inr (.inl (Option.some.inj h).symm)
  · exact .inr (.inr (.inl ⟨(Option.some.inj h).symm, hbad⟩))
  · obtain rfl | rfl := rangeStatus_cases h
    · exact .inl ⟨rfl, hseg⟩
    · exact .inr (.inr (.inr rfl))

theorem Block.seg_of_fromBgStatus_ok {p : RangePolicy} {b : Block}
    (h : fromBgStatus p b = some .ok) : ¬ b.fmtSeg < 3#3 := by
  simpa using fromBgStatus_cases h

theorem Block.decBad_of_fromBgStatus {p : RangePolicy} {b : Block}
    (h : fromBgStatus p b = some .invalidCharacter) : b.decBad = true := by
  simpa using fromBgStatus_cases h

/-! The three outcomes of the EOT of a `FROMBG` text, by the status that the flags choose. -/

theorem Block.endFromBgText_of_none {p : RangePolicy} {b : Block}
    (h : fromBgStatus p b.commitLast = none) : b.endFromBgText p = none := by
  simp [Block.endFromBgText, h]

theorem Block.endFromBgText_of_ok {p : RangePolicy} {b : Block}
    (h : fromBgStatus p b.commitLast = some .ok) : b.endFromBgText p =
      some ((b.commitLast.setText (uuidText b.commitLast.fmtUuid)).answer .ok) := by
  simp [Block.endFromBgText, h]

theorem Block.endFromBgText_of_error {p : RangePolicy} {b : Block} {e : Status}
    (h : fromBgStatus p b.commitLast = some e) (he : e ≠ .ok) :
    b.endFromBgText p = some (b.commitLast.answer e) := by
  cases e <;> simp_all [Block.endFromBgText]

theorem afterBeat_of_decText {b : Block} (h : b.st = .decText) (p : RangePolicy) (w : BeatWord) :
    afterBeat p w b = some (if beatEot w = 1#1 then b.endDecText else b.lookUp (beatChar w)) := by
  simp [afterBeat, h]

theorem afterBeat_of_fromBgText {b : Block} (h : b.st = .fromBgText) (p : RangePolicy)
    (w : BeatWord) : afterBeat p w b =
      if beatEot w = 1#1 then b.endFromBgText p else some (fromBgChar (beatChar w) b) := by
  simp [afterBeat, h]

/-! ## Statuses and runs -/

theorem Status.code_injective : Function.Injective Status.code := by
  intro e f; cases e <;> cases f <;> decide

theorem runs_succ_of_next {s t : State} (h : step s = .next t) (k : Nat) :
    Claims.runs (k + 1) s = Claims.runs k t := by
  simp only [Claims.runs, Host.Core.run, core, h]

theorem runs_succ_of_fault {s : State} {f : Fault} (h : step s = .fault f) (k : Nat) :
    Claims.runs (k + 1) s = .fault f := by
  simp only [Claims.runs, Host.Core.run, core, h]

theorem runs_succ_of_refused {s : State} {e : Refusal} (h : step s = .refused e) (k : Nat) :
    Claims.runs (k + 1) s = .refused e := by
  simp only [Claims.runs, Host.Core.run, core, h]

end Sys2Proof.Machine
end

section
/-! The register invariant: it holds after reset and every step keeps it. Each operation that a step
calls is shown to keep it, and `step_cases` puts the step together. -/

namespace Sys2Proof.Machine

/-! ## The invariant, by sequencer state -/

theorem Block.inv_of_idle {b : Block} (h : b.st = .idle) : b.inv := by simp [Block.inv, h]

theorem Block.inv_of_encIter {b : Block} (h : b.st = .encIter) (he : b.encoding) : b.inv := by
  simpa [Block.inv, h] using he

theorem Block.inv_of_decText {b : Block} (h : b.st = .decText) (hop : b.opR = opDec32)
    (hn : b.outLen.toNat = 0) : b.inv := by
  simp [Block.inv, h, hop, hn]

theorem Block.inv_of_fromBgText {b : Block} (h : b.st = .fromBgText) (hop : b.opR = opFrombg)
    (hn : b.outLen.toNat = 0) (hg : b.fmtSeg.toNat ≤ 4) : b.inv := by
  simp [Block.inv, h, hop, hn, hg]

theorem Block.inv_of_rsp {b : Block} (h : b.st = .rsp) (ha : b.answered) : b.inv := by
  simpa [Block.inv, h] using ha

theorem Block.inv_of_txt {b : Block} (h : b.st = .txt) (ha : b.answered)
    (hp : b.outPos.toNat ≤ b.outLen.toNat) : b.inv := by
  simpa [Block.inv, h] using And.intro ha hp

/-! ## Accepting a command -/

/-- Every command starts from a state of the invariant, whatever the registers held. -/
theorem accepted_inv (w : CmdWord) (b : Block) : (accepted w b).inv := by
  simp only [accepted]
  split_ifs with henc htobg hdec hfrom htext
  · exact Block.inv_of_encIter rfl ⟨by simp, BitVec.isLt _, .inl ⟨henc.1, rfl, rfl⟩⟩
  · exact Block.inv_of_encIter rfl ⟨by simp, BitVec.isLt _, .inr ⟨htobg.1, by simp⟩⟩
  · exact Block.inv_of_decText rfl hdec.1 rfl
  · exact Block.inv_of_fromBgText rfl hfrom.1 rfl (by simp)
  · exact Block.inv_of_rsp rfl (.inr ⟨rfl, .inr (.inl ⟨rfl, htext⟩)⟩)
  · obtain ⟨hd, hf⟩ := not_or.mp htext
    exact Block.inv_of_rsp rfl (.inr ⟨rfl, .inr (.inr (.inr (.inr ⟨rfl, hd, hf⟩)))⟩)

/-! ## The encoder -/

/-- A digit that does not finish the value leaves at least one digit to make. -/
theorem Block.encoding.encDigit {b : Block} (h : b.encoding) (hne : b.encSh >>> 5 ≠ 0#32) :
    b.encDigit.encoding := by
  obtain ⟨hlen, hsh, hcmd⟩ := h
  have hge : 32 ≤ b.encSh.toNat := by
    by_contra hlt
    exact hne (by apply BitVec.eq_of_toNat_eq; simp [Nat.shiftRight_eq_div_pow]; omega)
  have hlen5 : b.encLen.toNat ≤ 5 := by
    by_contra h6
    have h6 : b.encLen.toNat = 6 := by omega
    rw [h6] at hsh; omega
  have hnext : (b.encLen + 1#3).toNat = b.encLen.toNat + 1 := by bv_omega
  refine ⟨by simp [hnext]; omega, ?_, hcmd⟩
  have hpow : 2 ^ (32 - 5 * b.encLen.toNat) = 2 ^ (32 - 5 * (b.encLen.toNat + 1)) * 2 ^ 5 := by
    rw [← pow_add]; congr 1; omega
  simp only [encDigit_encLen, encDigit_encSh, hnext, BitVec.toNat_ushiftRight,
    Nat.shiftRight_eq_div_pow]
  exact Nat.div_lt_of_lt_mul (by omega)

/-- The last value ends `ENC32` with 1 to 7 characters and `TOBG` with 7 to 31 (30_encoding.md
R74). -/
theorem Block.encoding.finish_answered {b : Block} (h : b.encoding)
    (hlast : b.encDigit.lastValue = true) :
    ((b.encDigit.appendText b.encDigit.encText).answer .ok).answered := by
  obtain ⟨hlen, -, hcmd⟩ := h
  have htext := Block.encDigit_encText_length hlen
  have hlast : b.opR = opEnc32 ∨ b.fmtSeg.toNat = 3 := by
    simpa [Block.lastValue, ← BitVec.toNat_inj] using hlast
  have hout : ((b.encDigit.appendText b.encDigit.encText).answer .ok).outLen.toNat =
      b.outLen.toNat + (b.encLen.toNat + 1) := by
    rw [answer_outLen, appendText_outLen_toNat] <;> simp only [encDigit_outLen, htext]
    omega
  refine .inl ⟨rfl, ?_⟩
  obtain ⟨hop, -, hn⟩ | ⟨hop, hg, hn, hn'⟩ := hcmd
  · exact .inl ⟨hop, by omega, by rw [hout, Config.encMax]; omega⟩
  · have hg3 : b.fmtSeg.toNat = 3 := hlast.resolve_left (by rw [hop]; decide)
    exact .inr (.inr (.inl ⟨hop, by rw [hout, Config.bgTextMin]; omega,
      by rw [hout, Config.bgTextMax]; omega⟩))

/-- After a group of `TOBG` and its hyphen the encoder is at work on the next group. -/
theorem Block.encoding.nextGroup {b t : Block} (h : b.encoding)
    (hlast : b.encDigit.lastValue = false) (hseg : b.fmtSeg < 3#3)
    (ht : t = { (b.encDigit.appendText (b.encDigit.encText ++ [hyphenChar])).loadEncoder
      (group b.fmtUuid (b.fmtSeg.toNat + 1)) with fmtSeg := b.fmtSeg + 1#3 }) :
    t.encoding := by
  obtain ⟨hlen, -, hcmd⟩ := h
  have htext := Block.encDigit_encText_length hlen
  have hop : b.opR ≠ opEnc32 := fun he => by simp [Block.lastValue, he] at hlast
  obtain ⟨hop, hg, hn, hn'⟩ := hcmd.resolve_left fun ⟨he, _⟩ => hop he
  have hseg : b.fmtSeg.toNat < 3 := by bv_omega
  have hseg' : t.fmtSeg.toNat = b.fmtSeg.toNat + 1 := by rw [ht]; simp only; bv_omega
  have hout : t.outLen.toNat = b.outLen.toNat + (b.encLen.toNat + 2) := by
    rw [ht, loadEncoder_outLen, appendText_outLen_toNat] <;>
      simp only [encDigit_outLen, List.length_append, htext, List.length_singleton]
    omega
  refine ⟨by simp [ht], by rw [ht]; exact BitVec.isLt _, .inr ⟨by simp [ht, hop], ?_⟩⟩
  omega

theorem Block.encoding.encIter_inv {b t : Block} (hst : b.st = .encIter) (h : b.encoding)
    (ht : b.encIter = some t) : t.inv := by
  obtain ⟨hne, rfl⟩ | ⟨-, hlast, rfl⟩ | ⟨-, hlast, hseg, ht⟩ := Block.encIter_cases ht
  · exact Block.inv_of_encIter hst (h.encDigit hne)
  · exact Block.inv_of_rsp rfl (h.finish_answered hlast)
  · exact Block.inv_of_encIter (by simpa [ht] using hst) (h.nextGroup hlast hseg ht)

/-! ## The text states -/

theorem Block.endDecText_answered {b : Block} (hop : b.opR = opDec32) (hn : b.outLen.toNat = 0) :
    b.endDecText.answered := by
  cases hbad : b.decBad with
  | true =>
    rw [endDecText_of_bad hbad]
    exact .inr ⟨hn, .inl ⟨rfl, .inl hop⟩⟩
  | false =>
    cases hwide : isWide b.decAcc with
    | true =>
      rw [endDecText_of_wide hbad hwide]
      exact .inl ⟨rfl, .inr (.inl ⟨hop, by simp [hwide], by simp⟩)⟩
    | false =>
      rw [endDecText_of_fits hbad hwide]
      exact .inl ⟨rfl, .inr (.inl ⟨by simpa using hop, by simp [hwide], by simp⟩)⟩

theorem Block.endFromBgText_inv {p : RangePolicy} {b t : Block} (hop : b.opR = opFrombg)
    (hn : b.outLen.toNat = 0) (h : b.endFromBgText p = some t) : t.inv := by
  obtain ⟨hop', hlen', -⟩ := b.commitLast_frame
  rw [hop] at hop'
  rw [← hlen'] at hn
  obtain ⟨-, rfl⟩ | ⟨e, he, hne, rfl⟩ := Block.endFromBgText_cases h
  · exact Block.inv_of_rsp rfl (.inl ⟨rfl, .inr (.inr (.inr ⟨by simpa using hop', by simp⟩))⟩)
  · refine Block.inv_of_rsp rfl (.inr ⟨hn, ?_⟩)
    obtain ⟨rfl, -⟩ | rfl | ⟨rfl, -⟩ | rfl := fromBgStatus_cases he
    · exact absurd rfl hne
    · exact .inr (.inr (.inl ⟨rfl, hop'⟩))
    · exact .inl ⟨rfl, .inr hop'⟩
    · exact .inr (.inr (.inr (.inl ⟨rfl, hop'⟩)))

/-- A character of a `FROMBG` text keeps the command running and `fmt_seg` at most 4
(10_state.md R38). -/
theorem fromBgChar_frame {b : Block} (c : Byte) (hg : b.fmtSeg.toNat ≤ 4) :
    (fromBgChar c b).st = b.st ∧ (fromBgChar c b).opR = b.opR ∧
    (fromBgChar c b).outLen = b.outLen ∧ (fromBgChar c b).fmtSeg.toNat ≤ 4 := by
  unfold fromBgChar
  split_ifs
  · obtain ⟨hlt, h⟩ | ⟨-, h⟩ := b.hyphenStep_cases <;> rw [h]
    · exact ⟨rfl, rfl, rfl, by simp only; bv_omega⟩
    · exact ⟨rfl, rfl, rfl, hg⟩
  · exact ⟨rfl, rfl, rfl, hg⟩
  · unfold Block.segmentChar
    split_ifs
    · obtain ⟨hst, hop, hn, hseg, -⟩ := b.lookUp_frame c
      exact ⟨hst, hop, hn, hseg ▸ hg⟩
    · exact ⟨rfl, rfl, rfl, hg⟩

theorem afterBeat_inv {p : RangePolicy} {w : BeatWord} {b t : Block}
    (hst : b.st = .decText ∨ b.st = .fromBgText) (h : b.inv) (ht : afterBeat p w b = some t) :
    t.inv := by
  obtain ⟨-, hdec, hfrom, -⟩ := h
  obtain hst | hst := hst
  · obtain ⟨hop, hn⟩ := hdec hst
    rw [afterBeat_of_decText hst] at ht
    cases ht
    split_ifs
    · exact Block.inv_of_rsp b.endDecText_st (Block.endDecText_answered hop hn)
    · obtain ⟨hst', hop', hn', -⟩ := b.lookUp_frame (beatChar w)
      exact Block.inv_of_decText (hst'.trans hst) (hop'.trans hop) (hn' ▸ hn)
  · obtain ⟨hop, hn, hg⟩ := hfrom hst
    rw [afterBeat_of_fromBgText hst] at ht
    split_ifs at ht
    · exact Block.endFromBgText_inv hop hn ht
    · cases ht
      obtain ⟨hst', hop', hn', hg'⟩ := fromBgChar_frame (beatChar w) hg
      exact Block.inv_of_fromBgText (hst'.trans hst) (hop'.trans hop) (hn' ▸ hn) hg'

/-! ## The step -/

/-- Settles O38: each case of the step keeps the invariant, by the lemma about the operation it
calls. -/
theorem stepKeepsTheInvariant : Obligations.StepKeepsTheInvariant := by
  intro s t h hstep
  obtain ⟨henc, -, -, hrsp, htxt⟩ := id h
  cases step_cases hstep with
  | reset => exact Block.inv_of_idle rfl
  | accept w => exact accepted_inv w s.blk
  | encode b hr hst hb => exact (henc hst).encIter_inv hst hb
  | beat w b hr hst hw hb => exact afterBeat_inv hst h hb
  | respond hr hst => exact Block.inv_of_txt rfl (hrsp hst) (Nat.zero_le _)
  | send c hr hst hw hlt =>
    obtain ⟨hans, -⟩ := htxt hst
    exact Block.inv_of_txt hst hans (by simp only; bv_omega)
  | finish => exact Block.inv_of_idle rfl
  | rest | waitBeat | waitRsp | waitTxt => exact h

/-- Settles O37: `IDLE` says nothing about the other registers, and a host with nothing to send owes
no text. -/
theorem resetMeetsTheInvariant : Obligations.ResetMeetsTheInvariant :=
  ⟨Block.inv_of_idle rfl, by decide⟩

end Sys2Proof.Machine
end

section
/-! The reset edge (10_state.md R47), and what no step takes back: the beats that the host has
received and the parameter (R46). -/

namespace Sys2Proof.Machine

/-- In `IDLE` the block offers nothing and is ready for a command (10_state.md R22 to R25). -/
theorem Block.outputs_of_idle {b : Block} (h : b.st = .idle) :
    b.cmdReady = true ∧ b.tinReady = false ∧ b.rspValid = false ∧ b.toutValid = false := by
  simp [Block.cmdReady, Block.tinReady, Block.rspValid, Block.toutValid, h]

/-- Settles O30: `resetEdge` writes `IDLE` to `st`, and the outputs follow `st`. -/
theorem resetEdgeGoesToIdle : Obligations.ResetEdgeGoesToIdle := by
  intro s cs bs ms hm
  obtain ⟨hcmd, htin, hrsp, htout⟩ := Block.outputs_of_idle (resetEdge_st cs bs s)
  exact ⟨resetEdge cs bs s, step_of_reset hm, resetEdge_st cs bs s, hcmd, htin, hrsp, htout,
    by simp [HostSide.restart, hm]⟩

/-- Settles O42: of the cases of a step only `respond` delivers a response, and only `send` and
`finish` deliver a text beat. -/
theorem receivedBeatsStay : Obligations.ReceivedBeatsStay := by
  intro s t hstep
  cases step_cases hstep with
  | respond => exact ⟨rfl, .inr ⟨_, rfl⟩, .inl rfl⟩
  | send | finish => exact ⟨rfl, .inl rfl, .inr ⟨_, rfl⟩⟩
  | reset | accept | rest | encode | beat | waitBeat | waitRsp | waitTxt =>
    exact ⟨rfl, .inl rfl, .inl rfl⟩

end Sys2Proof.Machine
end

section
/-! What the registers hold in `IDLE` never shows (10_state.md R20, R47). Two runs with the same
host are compared register by register: in each sequencer state, the registers that a later step or
a port still reads agree (`Block.Alike`), and every step keeps that. -/

namespace Sys2Proof.Machine

open Sys2Proof.Claims

/-! ## Which registers agree -/

/-- The part of the result text that is already written, `out_buf[0 .. out_len-1]`. -/
def Block.resultText (b : Block) : Text := b.outBuf.toList.take b.outLen.toNat

/-- The same result text. -/
structure Block.SameResult (b c : Block) : Prop where
  len : b.outLen = c.outLen
  text : b.resultText = c.resultText

/-- The encoder is at the same digit of the same value. `ENC32` writes no `fmt_uuid`, so only `TOBG`
has one to compare. -/
structure Block.SameEncoder (b c : Block) : Prop where
  op : b.opR = c.opR
  rest : b.encSh = c.encSh
  len : b.encLen = c.encLen
  text : b.encText = c.encText
  seg : b.fmtSeg = c.fmtSeg
  source : b.opR = opEnc32 ∨ b.opR = opTobg ∧ b.fmtUuid = c.fmtUuid

/-- The decoder has read the same characters. -/
structure Block.SameDecoder (b c : Block) : Prop where
  acc : b.decAcc = c.decAcc
  bad : b.decBad = c.decBad
  badc : b.decBad = true → b.decBadc = c.decBadc
  syms : b.segSyms = c.segSyms

/-- The per-command flags of the formatter agree. -/
structure Block.SameFlags (b c : Block) : Prop where
  seg : b.fmtSeg = c.fmtSeg
  space : b.fmtSpace = c.fmtSpace
  wide : b.fmtWide = c.fmtWide
  long : b.fmtLong = c.fmtLong

/-- The first `n` groups of `fmt_uuid` agree. -/
def Block.SameGroups (n : Nat) (b c : Block) : Prop :=
  ∀ g < 4, g < n → group b.fmtUuid g = group c.fmtUuid g

/-- A `DEC32` has read the same characters. -/
structure Block.SameDec32 (b c : Block) : Prop where
  cmd : b.opR = opDec32
  op : b.opR = c.opR
  dec : b.SameDecoder c
  res : b.SameResult c

/-- A `FROMBG` has read the same characters; the groups before `fmt_seg` are committed. -/
structure Block.SameFrombg (b c : Block) : Prop where
  cmd : b.opR = opFrombg
  op : b.opR = c.opR
  dec : b.SameDecoder c
  flags : b.SameFlags c
  groups : b.SameGroups b.fmtSeg.toNat c
  res : b.SameResult c

/-- No later step can tell `b` from `c`. -/
inductive Block.Alike (b c : Block) : Prop
  | idle (hb : b.st = .idle) (hc : c.st = .idle)
  | encIter (hb : b.st = .encIter) (hc : c.st = .encIter) (enc : b.SameEncoder c)
      (res : b.SameResult c)
  | decText (hb : b.st = .decText) (hc : c.st = .decText) (same : b.SameDec32 c)
  | fromBgText (hb : b.st = .fromBgText) (hc : c.st = .fromBgText) (same : b.SameFrombg c)
  | rsp (hb : b.st = .rsp) (hc : c.st = .rsp) (response : b.response = c.response)
      (res : b.SameResult c)
  | txt (hb : b.st = .txt) (hc : c.st = .txt) (pos : b.outPos = c.outPos) (res : b.SameResult c)

theorem Block.Alike.st_eq {b c : Block} (h : b.Alike c) : b.st = c.st := by
  cases h <;> simp_all

/-! ## The result text -/

theorem Block.resultText_appendText {b : Block} {t : Text} (h : b.outLen.toNat + t.length ≤ 36) :
    (b.appendText t).resultText = b.resultText ++ t := by
  rw [resultText, appendText_outLen_toNat (by omega), appendText_outBuf,
    writeText_toList_take _ _ _ h, resultText]

theorem Block.resultText_setText {b : Block} {t : Text} (h : t.length ≤ 36) :
    (b.setText t).resultText = t := by
  have hlen : t.length % 64 = t.length := Nat.mod_eq_of_lt (by omega)
  simpa [resultText, hlen] using writeText_toList_take b.outBuf 0 t (by omega)

theorem Block.SameResult.appendText {b c : Block} {t : Text} (h : b.SameResult c)
    (ht : b.outLen.toNat + t.length ≤ 36) : (b.appendText t).SameResult (c.appendText t) where
  len := by simp [h.len]
  text := by rw [resultText_appendText ht, resultText_appendText (h.len ▸ ht), h.text]

theorem Block.SameResult.setText {t : Text} (ht : t.length ≤ 36) (b c : Block) :
    (b.setText t).SameResult (c.setText t) where
  len := rfl
  text := by rw [resultText_setText ht, resultText_setText ht]

/-- The result is two registers. -/
theorem Block.SameResult.congr {b c b' c' : Block} (h : b.SameResult c)
    (hn : b'.outLen = b.outLen) (hbuf : b'.outBuf = b.outBuf)
    (hn' : c'.outLen = c.outLen) (hbuf' : c'.outBuf = c.outBuf) : b'.SameResult c' where
  len := by rw [hn, hn', h.len]
  text := by simpa only [resultText, hn, hn', hbuf, hbuf'] using h.text

theorem Block.SameResult.of_empty {b c : Block} (hb : b.outLen = 0#6) (hc : c.outLen = 0#6) :
    b.SameResult c where
  len := hb.trans hc.symm
  text := by simp [resultText, hb, hc]

/-- The character that `TXT` sends is one of the result text (10_state.md R25). -/
theorem Block.SameResult.outBuf_getElem? {b c : Block} (h : b.SameResult c) {k : Nat}
    (hk : k < b.outLen.toNat) : b.outBuf[k]? = c.outBuf[k]? := by
  have hk' : k < c.outLen.toNat := h.len ▸ hk
  have := congrArg (·[k]?) h.text
  simpa [resultText, List.getElem?_take, hk, hk'] using this

/-! ## Answering -/

/-- What a response shows (10_state.md R24): the bad character with its own status, the decoder's
and the formatter's value with `OK` of their own command, and else status and length only. -/
theorem Block.Alike.answer {b c : Block} {e : Status} (op : b.opR = c.opR) (res : b.SameResult c)
    (hbad : e = .invalidCharacter → b.decBadc = c.decBadc)
    (hdec : e = .ok → b.opR = opDec32 → b.decAcc = c.decAcc ∧ b.rHexvalid = c.rHexvalid)
    (hfrom : e = .ok → b.opR = opFrombg → b.fmtUuid = c.fmtUuid) :
    (b.answer e).Alike (c.answer e) := by
  refine .rsp rfl rfl ?_ ⟨res.len, res.text⟩
  have hchar : (b.answer e).rspChar = (c.answer e).rspChar := by
    by_cases he : e = .invalidCharacter
    · simp only [rspChar, answer_decBadc, hbad he]; rfl
    · simp [rspChar, Status.code_injective.eq_iff, he]
  have hacc : (b.answer e).rspAcc = (c.answer e).rspAcc ∧
      (b.answer e).rspHexvalid = (c.answer e).rspHexvalid := by
    by_cases hok : b.opR = opDec32 ∧ e = .ok
    · obtain ⟨ha, hh⟩ := hdec hok.2 hok.1
      simp [rspAcc, rspHexvalid, answeredOk, ← op, ha, hh]
    · simp [rspAcc, rspHexvalid, answeredOk, ← op, Status.code_injective.eq_iff, hok]
  have huuid : (b.answer e).rspUuid = (c.answer e).rspUuid := by
    by_cases hok : b.opR = opFrombg ∧ e = .ok
    · simp [rspUuid, answeredOk, ← op, hfrom hok.2 hok.1]
    · simp [rspUuid, answeredOk, ← op, Status.code_injective.eq_iff, hok]
  simp only [response, hchar, hacc, huuid, rspStatus, rspLen, answer_rStatus, answer_outLen,
    res.len]

/-- A response without `OK` or `InvalidCharacter` shows its status and length only. -/
theorem Block.Alike.answer_bare {b c : Block} {e : Status} (op : b.opR = c.opR)
    (res : b.SameResult c) (hok : e ≠ .ok) (hbad : e ≠ .invalidCharacter) :
    (b.answer e).Alike (c.answer e) :=
  .answer op res (absurd · hbad) (absurd · hok) (absurd · hok)

/-! ## Accepting a command (70_reset_and_hazards.md R245) -/

/-- Every register that the command will read is written. -/
theorem accepted_alike (w : CmdWord) (b c : Block) : (accepted w b).Alike (accepted w c) := by
  simp only [accepted]
  split_ifs with henc htobg hdec hfrom
  · exact .encIter rfl rfl ⟨rfl, rfl, rfl, by simp [Block.encText], rfl, .inl henc.1⟩
      (.of_empty rfl rfl)
  · exact .encIter rfl rfl ⟨rfl, rfl, rfl, by simp [Block.encText], rfl, .inr ⟨htobg.1, rfl⟩⟩
      (.of_empty rfl rfl)
  · exact .decText rfl rfl ⟨hdec.1, rfl, ⟨rfl, rfl, nofun, rfl⟩, .of_empty rfl rfl⟩
  · exact .fromBgText rfl rfl ⟨hfrom.1, rfl, ⟨rfl, rfl, nofun, rfl⟩, ⟨rfl, rfl, rfl, rfl⟩,
      fun g _ hg => absurd hg (by simp), .of_empty rfl rfl⟩
  · exact .answer_bare rfl (.of_empty rfl rfl) nofun nofun
  · exact .answer_bare rfl (.of_empty rfl rfl) nofun nofun

/-! ## The encoder (70_reset_and_hazards.md R247) -/

/-- The encoder does not run for a command that reads a text. -/
theorem Block.SameEncoder.op_ne {b c : Block} (h : b.SameEncoder c) :
    b.opR ≠ opDec32 ∧ b.opR ≠ opFrombg := by
  obtain hop | ⟨hop, -⟩ := h.source <;> rw [hop] <;> decide

theorem Block.SameEncoder.encDigit {b c : Block} (h : b.SameEncoder c) (hlen : b.encLen ≠ 7#3) :
    b.encDigit.SameEncoder c.encDigit where
  op := h.op
  rest := by simp [h.rest]
  len := by simp [h.len]
  text := by rw [encText_encDigit hlen, encText_encDigit (h.len ▸ hlen), h.rest, h.text]
  seg := h.seg
  source := h.source

theorem Block.Alike.finishValue {b c : Block} (hb : b.st = .encIter) (hc : c.st = .encIter)
    (enc : b.SameEncoder c) (res : b.SameResult c) :
    Option.Rel Block.Alike b.finishValue c.finishValue := by
  have hlast : c.lastValue = b.lastValue := by simp [lastValue, enc.op, enc.seg]
  simp only [Block.finishValue, hlast, ← res.len, ← enc.text, ← enc.seg]
  split_ifs with hl hroom hroom
  · refine .some (.answer enc.op (res.appendText hroom) nofun (fun _ hdec => ?_)
      (fun _ hfrom => ?_))
    · exact absurd hdec enc.op_ne.1
    · exact absurd hfrom enc.op_ne.2
  · exact .none
  · have hop : b.opR ≠ opEnc32 := fun he => hl (by simp [lastValue, he])
    obtain ⟨hop, huuid⟩ := enc.source.resolve_left hop
    rw [← huuid]
    have hres := res.appendText (t := b.encText ++ [hyphenChar])
      (by simpa [← add_assoc] using hroom.2)
    exact .some (.encIter hb hc ⟨enc.op, rfl, rfl, by simp [encText], rfl, .inr ⟨hop, huuid⟩⟩
      ⟨hres.len, hres.text⟩)
  · exact .none

theorem Block.Alike.encIter_step {b c : Block} (hb : b.st = .encIter) (hc : c.st = .encIter)
    (enc : b.SameEncoder c) (res : b.SameResult c) :
    Option.Rel Block.Alike b.encIter c.encIter := by
  have hshift : b.encDigit.encSh = c.encDigit.encSh := by simp [enc.rest]
  rw [Block.encIter, Block.encIter]
  by_cases hlen : b.encLen = 7#3
  · rw [if_pos hlen, if_pos (enc.len ▸ hlen)]
    exact .none
  have hlen' : c.encLen ≠ 7#3 := enc.len ▸ hlen
  have henc := enc.encDigit hlen
  have hres : b.encDigit.SameResult c.encDigit := ⟨res.len, res.text⟩
  rw [if_neg hlen, if_neg hlen']
  by_cases hlast : b.encDigit.encSh = 0#32
  · rw [if_pos hlast, if_pos (hshift ▸ hlast)]
    exact Alike.finishValue hb hc henc hres
  · have hlast' : c.encDigit.encSh ≠ 0#32 := hshift ▸ hlast
    rw [if_neg hlast, if_neg hlast']
    exact .some (Alike.encIter hb hc henc hres)

/-! ## The text states (70_reset_and_hazards.md R248, R249) -/

theorem Block.SameDecoder.lookUp {b c : Block} (h : b.SameDecoder c) (x : Byte) :
    (b.lookUp x).SameDecoder (c.lookUp x) := by
  cases hbad : b.decBad with
  | true => rwa [lookUp_of_bad hbad, lookUp_of_bad (h.bad ▸ hbad)]
  | false =>
    have hbad' : c.decBad = false := h.bad ▸ hbad
    cases hr : rev x with
    | none =>
      rw [lookUp_invalid hbad hr, lookUp_invalid hbad' hr]
      exact ⟨h.acc, rfl, fun _ => rfl, h.syms⟩
    | some i =>
      rw [lookUp_symbol hbad hr, lookUp_symbol hbad' hr]
      exact ⟨by simp only [h.acc], h.bad, h.badc, by simp only [h.syms]⟩

theorem Block.SameResult.lookUp {b c : Block} (h : b.SameResult c) (x : Byte) :
    (b.lookUp x).SameResult (c.lookUp x) := by
  obtain ⟨-, -, hn, -, -, -, -, hbuf⟩ := b.lookUp_frame x
  obtain ⟨-, -, hn', -, -, -, -, hbuf'⟩ := c.lookUp_frame x
  exact h.congr hn hbuf hn' hbuf'

theorem Block.SameFlags.lookUp {b c : Block} (h : b.SameFlags c) (x : Byte) :
    (b.lookUp x).SameFlags (c.lookUp x) := by
  obtain ⟨-, -, -, hseg, -, hspace, hwide, -⟩ := b.lookUp_frame x
  obtain ⟨-, -, -, hseg', -, hspace', hwide', -⟩ := c.lookUp_frame x
  exact ⟨by rw [hseg, hseg', h.seg], by rw [hspace, hspace', h.space],
    by rw [hwide, hwide', h.wide], by rw [lookUp_fmtLong, lookUp_fmtLong, h.long]⟩

theorem Block.Alike.lookUp_decText {b c : Block} (hb : b.st = .decText) (hc : c.st = .decText)
    (h : b.SameDec32 c) (x : Byte) : (b.lookUp x).Alike (c.lookUp x) := by
  obtain ⟨hst, hop', -⟩ := b.lookUp_frame x
  obtain ⟨hst', hop'', -⟩ := c.lookUp_frame x
  exact .decText (hst.trans hb) (hst'.trans hc)
    ⟨hop'.trans h.cmd, by rw [hop', hop'', h.op], h.dec.lookUp x, h.res.lookUp x⟩

theorem Block.Alike.endDecText {b c : Block} (h : b.SameDec32 c) :
    b.endDecText.Alike c.endDecText := by
  obtain ⟨hop, op, dec, res⟩ := h
  have hfrom : b.opR ≠ opFrombg := by rw [hop]; decide
  cases hbad : b.decBad with
  | true =>
    rw [endDecText_of_bad hbad, endDecText_of_bad (dec.bad ▸ hbad)]
    exact .answer op res (fun _ => dec.badc hbad) nofun nofun
  | false =>
    cases hwide : isWide b.decAcc with
    | true =>
      rw [endDecText_of_wide hbad hwide, endDecText_of_wide (dec.bad ▸ hbad) (dec.acc ▸ hwide)]
      exact .answer op (.of_empty rfl rfl) nofun (fun _ _ => ⟨dec.acc, rfl⟩)
        (fun _ h => absurd h hfrom)
    | false =>
      rw [endDecText_of_fits hbad hwide, endDecText_of_fits (dec.bad ▸ hbad) (dec.acc ▸ hwide),
        ← dec.acc]
      have hres := SameResult.setText (t := hex8 (b.decAcc.extractLsb' 0 32)) (by simp) b c
      exact .answer (by simpa using op) (hres.congr rfl rfl rfl rfl) nofun
        (fun _ _ => ⟨by simpa using dec.acc, rfl⟩) (fun _ h => absurd (by simpa using h) hfrom)

/-! ### The formatter (42_group_formatter.md R173 to R178) -/

/-- `commit` of the same accumulator. -/
theorem Block.SameFlags.commit {b c : Block} (h : b.SameFlags c) (dec : b.SameDecoder c) (n : Nat) :
    (b.commit n).SameFlags (c.commit n) :=
  ⟨h.seg, h.space, by simp [h.wide, dec.acc], by simp [h.long, dec.syms]⟩

/-- After `commit(n)` one more group agrees. -/
theorem Block.SameGroups.commit {b c : Block} {n : Nat} (h : b.SameGroups n c)
    (dec : b.SameDecoder c) : (b.commit n).SameGroups (n + 1) (c.commit n) := by
  intro g hg hn
  rw [commit_fmtUuid, commit_fmtUuid, group_putGroup _ _ _ _ hg, group_putGroup _ _ _ _ hg,
    dec.acc]
  split_ifs with heq
  · rfl
  · exact h g hg (by omega)

theorem Block.SameGroups.fmtUuid_eq {b c : Block} {n : Nat} (h : b.SameGroups n c) (hn : 4 ≤ n) :
    b.fmtUuid = c.fmtUuid := by
  rw [← joinGroups_group b.fmtUuid, ← joinGroups_group c.fmtUuid, h 0 (by omega) (by omega),
    h 1 (by omega) (by omega), h 2 (by omega) (by omega), h 3 (by omega) (by omega)]

theorem Block.Alike.hyphenStep {b c : Block} (hb : b.st = .fromBgText) (hc : c.st = .fromBgText)
    (h : b.SameFrombg c) : b.hyphenStep.Alike c.hyphenStep := by
  obtain ⟨hop, op, dec, flags, groups, res⟩ := id h
  simp only [Block.hyphenStep, ← flags.seg]
  split_ifs with hlt
  · have hflags := flags.commit dec b.fmtSeg.toNat
    have hseg : (b.fmtSeg + 1#3).toNat = b.fmtSeg.toNat + 1 := by bv_omega
    exact .fromBgText hb hc ⟨hop, op, ⟨rfl, dec.bad, dec.badc, rfl⟩,
      ⟨rfl, hflags.space, hflags.wide, hflags.long⟩, hseg ▸ groups.commit dec,
      ⟨res.len, res.text⟩⟩
  · exact .fromBgText hb hc h

theorem Block.Alike.fromBgChar {b c : Block} (hb : b.st = .fromBgText) (hc : c.st = .fromBgText)
    (h : b.SameFrombg c) (x : Byte) : (fromBgChar x b).Alike (fromBgChar x c) := by
  obtain ⟨hop, op, dec, flags, groups, res⟩ := id h
  simp only [Machine.fromBgChar, Block.segmentChar, ← flags.seg]
  split_ifs
  · exact .hyphenStep hb hc h
  · exact .fromBgText hb hc ⟨hop, op, ⟨dec.acc, dec.bad, dec.badc, dec.syms⟩,
      ⟨flags.seg, rfl, flags.wide, flags.long⟩, groups, ⟨res.len, res.text⟩⟩
  · obtain ⟨hst, hop', -, hseg, huuid, -⟩ := b.lookUp_frame x
    obtain ⟨hst', hop'', -, -, huuid', -⟩ := c.lookUp_frame x
    exact .fromBgText (hst.trans hb) (hst'.trans hc) ⟨hop'.trans hop, by rw [hop', hop'', op],
      dec.lookUp x, flags.lookUp x, by simpa only [SameGroups, hseg, huuid, huuid'] using groups,
      res.lookUp x⟩
  · exact .fromBgText hb hc h

theorem Block.SameFlags.commitLast {b c : Block} (h : b.SameFlags c) (dec : b.SameDecoder c) :
    b.commitLast.SameFlags c.commitLast := by
  simp only [Block.commitLast, ← h.seg]
  split_ifs
  · exact h.commit dec _
  · exact h

/-- With three hyphens read, all four groups are committed by EOT. -/
theorem Block.SameGroups.commitLast {b c : Block} (h : b.SameGroups b.fmtSeg.toNat c)
    (flags : b.SameFlags c) (dec : b.SameDecoder c) (hseg : ¬ b.fmtSeg < 3#3) :
    b.commitLast.fmtUuid = c.commitLast.fmtUuid := by
  simp only [Block.commitLast, ← flags.seg]
  split_ifs
  · exact (h.commit dec).fmtUuid_eq (by bv_omega)
  · exact h.fmtUuid_eq (by bv_omega)

theorem Block.Alike.endFromBgText {b c : Block} (p : RangePolicy) (h : b.SameFrombg c) :
    Option.Rel Block.Alike (b.endFromBgText p) (c.endFromBgText p) := by
  obtain ⟨hop, op, dec, flags, groups, res⟩ := h
  obtain ⟨hop', hn, hbuf, hseg, -, hbad, hbadc⟩ := b.commitLast_frame
  obtain ⟨hopc, hnc, hbufc, -, -, hbad', hbadc'⟩ := c.commitLast_frame
  have hflags := flags.commitLast dec
  have op' : b.commitLast.opR = c.commitLast.opR := by rw [hop', hopc, op]
  have hstatus : fromBgStatus p c.commitLast = fromBgStatus p b.commitLast := by
    simp only [fromBgStatus, hflags.seg, hflags.space, hflags.wide, hflags.long, hbad, hbad',
      dec.bad]
  cases hs : fromBgStatus p b.commitLast with
  | none =>
    rw [endFromBgText_of_none hs, endFromBgText_of_none (hstatus.trans hs)]
    exact .none
  | some e =>
    by_cases he : e = .ok
    · subst he
      have huuid := groups.commitLast flags dec (hseg ▸ seg_of_fromBgStatus_ok hs)
      rw [endFromBgText_of_ok hs, endFromBgText_of_ok (hstatus.trans hs), ← huuid]
      refine .some (.answer (by simpa using op') (.setText (by simp) _ _) nofun
        (fun _ hdec => ?_) (fun _ _ => by simpa using huuid))
      exact absurd (hop.symm.trans (hop'.symm.trans (by simpa using hdec))) (by decide)
    · rw [endFromBgText_of_error hs he, endFromBgText_of_error (hstatus.trans hs) he]
      refine .some (.answer op' (res.congr hn hbuf hnc hbufc) ?_ (absurd · he) (absurd · he))
      rintro rfl
      rw [hbadc, hbadc', dec.badc (hbad ▸ decBad_of_fromBgStatus hs)]

/-- A text beat, in either text state. -/
theorem Block.Alike.afterBeat {b c : Block} (h : b.Alike c) (p : RangePolicy) (w : BeatWord)
    (hst : b.st = .decText ∨ b.st = .fromBgText) :
    Option.Rel Block.Alike (afterBeat p w b) (afterBeat p w c) := by
  cases h with
  | decText hb hc same =>
    rw [afterBeat_of_decText hb, afterBeat_of_decText hc]
    split_ifs
    · exact .some (.endDecText same)
    · exact .some (.lookUp_decText hb hc same _)
  | fromBgText hb hc same =>
    rw [afterBeat_of_fromBgText hb, afterBeat_of_fromBgText hc]
    split_ifs
    · exact Alike.endFromBgText p same
    · exact .some (.fromBgChar hb hc same _)
  | idle hb | encIter hb | rsp hb | txt hb => simp [hb] at hst

/-! ## The step -/

/-- Two machines with the same host and parameter, whose registers no later step can tell apart. -/
structure State.Alike (s r : State) : Prop where
  blk : s.blk.Alike r.blk
  host : s.host = r.host
  policy : s.policy = r.policy

/-- The same kind of outcome, and alike when it is a next state. -/
inductive SameOutcome : Host.Outcome State Fault Refusal → Host.Outcome State Fault Refusal → Prop
  | next {t u : State} (h : t.Alike u) : SameOutcome (.next t) (.next u)
  | fault (f : Fault) : SameOutcome (.fault f) (.fault f)
  | refused (e : Refusal) : SameOutcome (.refused e) (.refused e)

theorem SameOutcome.seen_eq {o o' : Host.Outcome State Fault Refusal} (h : SameOutcome o o') :
    seen o = seen o' := by
  cases h with
  | next h => simp [seen, h.blk.st_eq, h.host]
  | fault | refused => rfl

/-- The next state with these registers, or else `stop`. -/
def State.withBlkOr (s : State) (stop : Host.Outcome State Fault Refusal) :
    Option Block → Host.Outcome State Fault Refusal
  | some b => .next { s with blk := b }
  | none => stop

theorem SameOutcome.withBlkOr {s r : State} {o o' : Option Block}
    {stop : Host.Outcome State Fault Refusal} (h : Option.Rel Block.Alike o o')
    (host : s.host = r.host) (policy : s.policy = r.policy) (hstop : SameOutcome stop stop) :
    SameOutcome (s.withBlkOr stop o) (r.withBlkOr stop o') := by
  cases h with
  | some h => exact .next ⟨h, host, policy⟩
  | none => exact hstop

theorem encIter_eq_withBlkOr (s : State) :
    encIter s = s.withBlkOr (.fault .noStepGiven) s.blk.encIter := by
  cases h : s.blk.encIter <;> simp [encIter, State.withBlkOr, h]

theorem exec_decodeBeat_eq_withBlkOr {w : BeatWord} {s : State}
    (hst : s.blk.st = .decText ∨ s.blk.st = .fromBgText) : exec (decodeBeat w) s =
      s.withBlkOr (.refused .wideSegment) (afterBeat s.policy w s.blk) := by
  rw [exec_decodeBeat]
  by_cases he : beatEot w = 1#1
  · rw [if_pos he]
    obtain hst | hst := hst
    · simp [execEot, afterBeat_of_decText hst, hst, he, State.withBlkOr]
    · rw [afterBeat_of_fromBgText hst, if_pos he]
      cases h : s.blk.endFromBgText s.policy <;> simp [execEot, hst, State.withBlkOr, h]
  · rw [if_neg he]
    obtain hst | hst := hst
    · simp [onText_of_decText hst, afterBeat_of_decText hst, he, State.withBlkOr]
    · simp [onText_of_fromBgText hst, afterBeat_of_fromBgText hst, he, State.withBlkOr]

namespace State.Alike

variable {s r : State}

theorem pass (h : s.Alike r) : s.pass.Alike r.pass :=
  ⟨h.blk, congrArg HostSide.pass h.host, h.policy⟩

theorem withHost (h : s.Alike r) (k : HostSide) :
    State.Alike { s with host := k } { r with host := k } :=
  ⟨h.blk, rfl, h.policy⟩

theorem exec_command (h : s.Alike r) (hst : s.blk.st = .idle) (w : CmdWord) :
    SameOutcome (exec (decode (.cmd w)) s) (exec (decode (.cmd w)) r) := by
  rw [decode, exec_decodeCmd, exec_decodeCmd, whenIdle_of_idle hst,
    whenIdle_of_idle (h.blk.st_eq ▸ hst)]
  exact .next ⟨accepted_alike w s.blk r.blk, h.host, h.policy⟩

theorem exec_beat (h : s.Alike r) (hst : s.blk.st = .decText ∨ s.blk.st = .fromBgText)
    (w : BeatWord) : SameOutcome (exec (decode (.beat w)) s) (exec (decode (.beat w)) r) := by
  rw [decode, exec_decodeBeat_eq_withBlkOr hst,
    exec_decodeBeat_eq_withBlkOr (h.blk.st_eq ▸ hst), ← h.policy]
  exact .withBlkOr (h.blk.afterBeat _ w hst) h.host h.policy (.refused _)

theorem idleEdge (h : s.Alike r) (hst : s.blk.st = .idle) :
    SameOutcome (idleEdge s) (idleEdge r) := by
  unfold Machine.idleEdge
  rw [← h.host]
  split
  · exact (h.withHost s.host.pass.takeCmd).exec_command hst _
  · exact .next h.pass

theorem textEdge (h : s.Alike r) (hst : s.blk.st = .decText ∨ s.blk.st = .fromBgText) :
    SameOutcome (textEdge s) (textEdge r) := by
  unfold Machine.textEdge
  rw [← h.host]
  split
  · exact (h.withHost s.host.pass.takeTin).exec_beat hst _
  · exact .next h.pass

theorem rspEdge (h : s.Alike r) (response : s.blk.response = r.blk.response)
    (res : s.blk.SameResult r.blk) : SameOutcome (rspEdge s) (rspEdge r) := by
  unfold Machine.rspEdge
  rw [← h.host, ← response]
  split
  · exact .next ⟨.txt rfl rfl rfl ⟨res.len, res.text⟩, rfl, h.policy⟩
  · exact .next h.pass

theorem txtEdge (h : s.Alike r) (hb : s.blk.st = .txt) (hc : r.blk.st = .txt)
    (pos : s.blk.outPos = r.blk.outPos) (res : s.blk.SameResult r.blk) :
    SameOutcome (txtEdge s) (txtEdge r) := by
  unfold Machine.txtEdge
  rw [← h.host, ← pos, ← res.len]
  split
  · split
    · rename_i hlt
      rw [← res.outBuf_getElem? (by bv_omega)]
      split
      · exact .next ⟨.txt hb hc rfl ⟨res.len, res.text⟩, rfl, h.policy⟩
      · exact .fault _
    · split
      · exact .next ⟨.idle rfl rfl, rfl, h.policy⟩
      · exact .fault _
  · exact .next h.pass

theorem clockEdge (h : s.Alike r) : SameOutcome (clockEdge s) (clockEdge r) := by
  cases h.blk with
  | idle hb hc =>
    simp only [Machine.clockEdge, hb, hc]
    exact h.idleEdge hb
  | encIter hb hc enc res =>
    simp only [Machine.clockEdge, hb, hc, encIter_eq_withBlkOr]
    exact .withBlkOr (Block.Alike.encIter_step hb hc enc res) h.pass.host h.policy (.fault _)
  | decText hb hc =>
    simp only [Machine.clockEdge, hb, hc]
    exact h.textEdge (.inl hb)
  | fromBgText hb hc =>
    simp only [Machine.clockEdge, hb, hc]
    exact h.textEdge (.inr hb)
  | rsp hb hc response res =>
    simp only [Machine.clockEdge, hb, hc]
    exact h.rspEdge response res
  | txt hb hc pos res =>
    simp only [Machine.clockEdge, hb, hc]
    exact h.txtEdge hb hc pos res

theorem strayText_eq (h : s.Alike r) : s.strayText = r.strayText := by
  simp only [State.strayText, Block.tinReady, h.host, h.blk.st_eq]

theorem step (h : s.Alike r) : SameOutcome (step s) (step r) := by
  cases hr : s.host.rst with
  | true =>
    obtain ⟨cs, bs, ms, hm⟩ := moves_of_rst hr
    rw [step_of_reset hm, step_of_reset (h.host ▸ hm)]
    exact .next ⟨.idle rfl rfl, congrArg (HostSide.restart cs bs) h.host, h.policy⟩
  | false =>
    rw [step_of_rst hr, step_of_rst (h.host ▸ hr), ← h.strayText_eq]
    split
    · exact .refused _
    · exact h.clockEdge

end State.Alike

/-! ## The run -/

theorem State.Alike.runs {s r : State} (h : s.Alike r) (k : Nat) :
    SameOutcome (runs k s) (runs k r) := by
  induction k generalizing s r with
  | zero => exact .next h
  | succ k ih =>
    generalize hs : Machine.step s = o
    generalize hr : Machine.step r = o'
    cases hs ▸ hr ▸ h.step with
    | next h' => rw [runs_succ_of_next hs, runs_succ_of_next hr]; exact ih h'
    | fault f => rw [runs_succ_of_fault hs, runs_succ_of_fault hr]; exact .fault f
    | refused e => rw [runs_succ_of_refused hs, runs_succ_of_refused hr]; exact .refused e

/-- Settles O60: machines in `IDLE` are alike whatever their registers hold, and stay so. -/
theorem nothingIsCarriedOver : Obligations.NothingIsCarriedOver :=
  fun _ _ hs hr host policy k => (State.Alike.runs ⟨.idle hs hr, host, policy⟩ k).seen_eq

end Sys2Proof.Machine
end

section
/-! The tables `ALPHA` and `REV` against the string of the specification (20_memory.md R50, R51). -/

namespace Sys2Proof.Machine

open Sys2Proof.Claims

/-- Every code that `REV` finds is a digit or an upper-case letter other than `I`, `L`, `O`, `U`. -/
theorem alpha_bounds : ∀ i : BitVec 5, 0x30#8 ≤ alpha i ∧ alpha i ≤ 0x5A#8 ∧
    alpha i ∉ [0x49#8, 0x4C#8, 0x4F#8, 0x55#8] := by decide

theorem rev_eq_none_of_forall_ne {c : Byte} (h : ∀ i, alpha i ≠ c) : rev c = none :=
  Option.eq_none_iff_forall_ne_some.mpr fun i hi => h i ((rev_eq_some_iff c i).mp hi)

theorem rev_eq_none_of_gt {c : Byte} (h : 0x5A#8 < c) : rev c = none :=
  rev_eq_none_of_forall_ne fun i hi => by
    obtain ⟨-, hle, -⟩ := alpha_bounds i
    exact absurd h (BitVec.not_lt.mpr (hi ▸ hle))

theorem rev_eq_none_of_lt {c : Byte} (h : c < 0x30#8) : rev c = none :=
  rev_eq_none_of_forall_ne fun i hi => by
    obtain ⟨hge, -⟩ := alpha_bounds i
    exact absurd h (BitVec.not_lt.mpr (hi ▸ hge))

/-- 32 codes are valid: none below `0` or above `Z`, and 32 of the 43 codes between. -/
theorem rev_countP_isSome :
    (List.range 256).countP (fun n => (rev (BitVec.ofNat 8 n)).isSome) = 32 := by
  have hlow : (List.range 48).countP (fun n => (rev (BitVec.ofNat 8 n)).isSome) = 0 :=
    List.countP_eq_zero.mpr fun n hn => by
      have hn := List.mem_range.mp hn
      simp [rev_eq_none_of_lt (show BitVec.ofNat 8 n < 0x30#8 by bv_omega)]
  have hmid : (List.range 43).countP (fun n => (rev (BitVec.ofNat 8 (48 + n))).isSome) = 32 := by
    decide
  have hhigh :
      (List.range 165).countP (fun n => (rev (BitVec.ofNat 8 (91 + n))).isSome) = 0 :=
    List.countP_eq_zero.mpr fun n hn => by
      have hn := List.mem_range.mp hn
      simp [rev_eq_none_of_gt (show 0x5A#8 < BitVec.ofNat 8 (91 + n) by bv_omega)]
  rw [show 256 = 48 + 43 + 165 from rfl, List.range_add, List.range_add, List.countP_append,
    List.countP_append, List.countP_map, List.countP_map]
  exact congrArg₂ (· + ·) (congrArg₂ (· + ·) hlow hmid) hhigh

theorem rev_eq_none_of_omitted {c : Byte} (h : c ∈ [0x49#8, 0x4C#8, 0x4F#8, 0x55#8]) :
    rev c = none :=
  rev_eq_none_of_forall_ne fun i hi => by
    obtain ⟨-, -, hout⟩ := alpha_bounds i
    exact hout (hi ▸ h)

/-- Settles O5: `REV` inverts `ALPHA`, and the codes named as invalid are either outside the range
of the symbols or one of the four omitted letters. -/
theorem revIsTheInverseOfAlpha : Obligations.RevIsTheInverseOfAlpha := by
  refine ⟨rev_eq_some_iff, rev_countP_isSome, fun c hc _ => rev_eq_none_of_gt ?_, fun c hc => ?_,
    fun c hc => rev_eq_none_of_gt ?_⟩
  · bv_omega
  · obtain hc | hc := List.mem_append.mp (show c ∈ [0x49#8, 0x4C#8, 0x4F#8, 0x55#8] ++
      [0x2D#8, 0x20#8] from hc)
    · exact rev_eq_none_of_omitted hc
    · obtain rfl | rfl : c = 0x2D#8 ∨ c = 0x20#8 := by simpa using hc
      · exact rev_hyphen
      · exact rev_space
  · bv_omega

/-- The rows of the string, each against its position: the symbol's code and its table row. -/
theorem alphabetRows_spec : ∀ k : Fin 32, ∀ r ∈ alphabetRows[k.val]?,
    alpha (BitVec.ofNat 5 k) = code r.1 ∧ decodeChar (code r.1) = r.2 := by decide

/-- Settles O4: `ALPHA` is compared with the string position by position; `REV` then follows
because it inverts `ALPHA`. -/
theorem alphabetIsTheStringOfTheSpec : Obligations.AlphabetIsTheStringOfTheSpec := by
  refine ⟨rfl, fun k r hr => ?_⟩
  obtain ⟨halpha, hrow⟩ := alphabetRows_spec k r hr
  exact ⟨halpha, (rev_eq_some_iff _ _).mpr halpha, (Laws.decodeBeat_char _).trans hrow⟩

end Sys2Proof.Machine
end

section
/-! What a run comes to at any pace of the host. A scene is a state without the pace; each step of
the sequencer that waits for a port leads from one scene to the next, because a host without reset
makes the block wait at finitely many edges only (70_reset_and_hazards.md R255 H4). -/

namespace Sys2Proof.Machine

open Sys2Proof.Claims

/-! ## Runs -/

theorem runs_add_of_next {s t : State} {k : Nat} (h : runs k s = .next t) (j : Nat) :
    runs (k + j) s = runs j t := by
  induction k generalizing s with
  | zero => cases h; rw [Nat.zero_add]
  | succ k ih =>
    rw [Nat.add_right_comm]
    cases hs : step s with
    | next s' =>
      rw [runs_succ_of_next hs] at h ⊢
      exact ih h
    | fault f => rw [runs_succ_of_fault hs] at h; cases h
    | refused e => rw [runs_succ_of_refused hs] at h; cases h

theorem HostSide.noReset.rst {h : HostSide} (hn : h.noReset) : h.rst = false :=
  rst_eq_false fun cs bs ms hm => by
    obtain ⟨l, hl⟩ := hn (.reset cs bs) (by simp [hm])
    cases hl

theorem HostSide.noReset.of_tail {h k : HostSide} (hn : h.noReset)
    (hm : k.moves = h.moves.tail) : k.noReset :=
  fun m hk => hn m (List.mem_of_mem_tail (hm ▸ hk))

/-! ## Scenes -/

/-- What a run depends on but for the pace of the host: the registers, the parameter, the words
still to be taken and the beats received. -/
structure Scene where
  blk : Block
  policy : RangePolicy
  cmds : List CmdWord
  beats : List BeatWord
  responses : List Response
  texts : List OutBeat

/-- The scene of a state; it leaves out the moves of the host and what is held on offer. -/
def State.scene (s : State) : Scene where
  blk := s.blk
  policy := s.policy
  cmds := s.host.cmdQ
  beats := s.host.tinQ
  responses := s.host.responses
  texts := s.host.texts

/-- The text beats, if there are any, have a command that can own them
(70_reset_and_hazards.md R255 H3, R258). -/
def HasOwner (cmds : List CmdWord) (beats : List BeatWord) : Prop :=
  beats = [] ∨ ∃ w ∈ cmds, takesText w = true

/-- No text beat of the scene is stray: it belongs to the text being consumed or to a command still
to be taken. -/
def Scene.Owned (x : Scene) : Prop := x.blk.tinReady = true ∨ HasOwner x.cmds x.beats

/-- At any pace of the host without reset, the machine comes from the one scene to the other. -/
def Leads (x y : Scene) : Prop :=
  ∀ s : State, s.scene = x → s.host.noReset →
    ∃ k t, runs k s = .next t ∧ t.scene = y ∧ t.host.noReset

theorem Leads.refl (x : Scene) : Leads x x := fun s hs hn => ⟨0, s, rfl, hs, hn⟩

theorem Leads.trans {x y z : Scene} (h : Leads x y) (h' : Leads y z) : Leads x z := by
  intro s hs hn
  obtain ⟨k, t, hk, ht, hn⟩ := h s hs hn
  obtain ⟨j, u, hj, hu, hn⟩ := h' t ht hn
  exact ⟨k + j, u, (runs_add_of_next hk j).trans hj, hu, hn⟩

theorem Scene.Owned.not_stray {s : State} (h : s.scene.Owned) : s.strayText = false := by
  obtain h | h | ⟨w, hm, hw⟩ := h
  · exact not_stray_of_tinReady h
  · exact not_stray_of_silent (by simp [HostSide.tinValid, show s.host.tinQ = [] from h])
  · exact not_stray_of_textCommand hm hw

/-- The edge of an owned scene, as a run. -/
theorem Scene.Owned.runs_one {s t : State} (h : s.scene.Owned) (hn : s.host.noReset)
    (ht : clockEdge s = .next t) : runs 1 s = .next t :=
  runs_succ_of_next (k := 0) (by rw [step_of_rst hn.rst, if_neg (by simp [h.not_stray]), ht])

/-- The step of a scene that waits for the host and then goes on: each edge uses up a move of the
host, and a host with no move left does not make the block wait. -/
theorem leads_of_edge {x y : Scene} (howned : x.Owned) (ready : HostSide → Bool)
    (hready : ∀ s : State, s.scene = x → s.host.moves = [] → ready s.host = true)
    (hwait : ∀ s : State, s.scene = x → ready s.host = false → clockEdge s = .next s.pass)
    (hgo : ∀ s : State, s.scene = x → ready s.host = true →
      ∃ t, clockEdge s = .next t ∧ t.scene = y ∧ t.host.moves = s.host.moves.tail) :
    Leads x y := by
  intro s hs hn
  induction hm : s.host.moves generalizing s with
  | nil =>
    obtain ⟨t, ht, hy, hmoves⟩ := hgo s hs (hready s hs hm)
    exact ⟨1, t, (hs ▸ howned).runs_one hn ht, hy, hn.of_tail hmoves⟩
  | cons m ms ih =>
    cases hr : ready s.host with
    | true =>
      obtain ⟨t, ht, hy, hmoves⟩ := hgo s hs hr
      exact ⟨1, t, (hs ▸ howned).runs_one hn ht, hy, hn.of_tail hmoves⟩
    | false =>
      obtain ⟨k, t, hk, hy, hn'⟩ := ih s.pass hs (hn.of_tail rfl) (by simp [hm])
      have hpass := (hs ▸ howned).runs_one hn (hwait s hs hr)
      exact ⟨1 + k, t, (runs_add_of_next hpass k).trans hk, hy, hn'⟩

/-! ## The steps of a scene -/

/-- A host with no move left offers what it has and is ready. -/
theorem HostSide.levels_of_done {h : HostSide} (hm : h.moves = []) :
    h.levels = ⟨true, true, true, true⟩ := by
  simp [HostSide.levels, hm]

theorem HostSide.cmdValid_of_done {h : HostSide} (hm : h.moves = []) :
    h.cmdValid = !h.cmdQ.isEmpty := by
  simp [HostSide.cmdValid, HostSide.levels_of_done hm]

theorem HostSide.tinValid_of_done {h : HostSide} (hm : h.moves = []) :
    h.tinValid = !h.tinQ.isEmpty := by
  simp [HostSide.tinValid, HostSide.levels_of_done hm]

/-! The edge by the sequencer state. -/

theorem clockEdge_of_idle {s : State} (h : s.blk.st = .idle) : clockEdge s = idleEdge s := by
  simp [clockEdge, h]

theorem clockEdge_of_encIter {s : State} (h : s.blk.st = .encIter) :
    clockEdge s = encIter s.pass := by
  simp [clockEdge, h]

theorem clockEdge_of_text {s : State} (h : s.blk.st = .decText ∨ s.blk.st = .fromBgText) :
    clockEdge s = textEdge s := by
  obtain h | h := h <;> simp [clockEdge, h]

theorem clockEdge_of_rsp {s : State} (h : s.blk.st = .rsp) : clockEdge s = rspEdge s := by
  simp [clockEdge, h]

theorem clockEdge_of_txt {s : State} (h : s.blk.st = .txt) : clockEdge s = txtEdge s := by
  simp [clockEdge, h]

/-- A command is accepted (70_reset_and_hazards.md R245). -/
theorem leads_accept {x : Scene} {w : CmdWord} {cmds : List CmdWord} (hst : x.blk.st = .idle)
    (hcmds : x.cmds = w :: cmds) (howned : x.Owned) :
    Leads x { x with blk := accepted w x.blk, cmds := cmds } := by
  refine leads_of_edge howned HostSide.cmdValid ?_ ?_ ?_ <;> rintro s rfl h <;>
    change s.host.cmdQ = _ at hcmds
  · rw [HostSide.cmdValid_of_done h, hcmds]; rfl
  · rw [clockEdge_of_idle hst, idleEdge, HostSide.cmdPort, if_neg (by simp [h])]
  · refine ⟨{ s with blk := accepted w s.blk, host := s.host.pass.takeCmd }, ?_,
      by simp [State.scene, hcmds], rfl⟩
    rw [clockEdge_of_idle hst, idleEdge, HostSide.cmdPort, if_pos h, hcmds]
    exact (exec_decodeCmd _ _).trans (whenIdle_of_idle hst)

/-- The encoder makes a digit (R247). -/
theorem leads_encIter {x : Scene} {b : Block} (hst : x.blk.st = .encIter)
    (hb : x.blk.encIter = some b) (howned : x.Owned) : Leads x { x with blk := b } := by
  refine leads_of_edge howned (fun _ => true) (fun _ _ _ => rfl) (fun _ _ h => nomatch h) ?_
  rintro s rfl -
  refine ⟨{ s.pass with blk := b }, ?_, rfl, rfl⟩
  rw [clockEdge_of_encIter hst, encIter, State.pass_blk, show s.blk.encIter = _ from hb]

/-- A text beat is taken (R248, R249). -/
theorem leads_beat {x : Scene} {w : BeatWord} {beats : List BeatWord} {b : Block}
    (hst : x.blk.st = .decText ∨ x.blk.st = .fromBgText) (hbeats : x.beats = w :: beats)
    (hb : afterBeat x.policy w x.blk = some b) : Leads x { x with blk := b, beats := beats } := by
  have howned : x.Owned := .inl (by obtain h | h := hst <;> simp [Block.tinReady, h])
  refine leads_of_edge howned HostSide.tinValid ?_ ?_ ?_ <;> rintro s rfl h <;>
    change s.host.tinQ = _ at hbeats
  · rw [HostSide.tinValid_of_done h, hbeats]; rfl
  · rw [clockEdge_of_text hst, textEdge, HostSide.tinPort, if_neg (by simp [h])]
  · refine ⟨{ s with blk := b, host := s.host.pass.takeTin }, ?_,
      by simp [State.scene, hbeats], rfl⟩
    rw [clockEdge_of_text hst, textEdge, HostSide.tinPort, if_pos h, hbeats]
    exact (exec_decodeBeat_eq_withBlkOr (s := { s with host := s.host.pass.takeTin }) hst).trans
      (congrArg (State.withBlkOr _ _) hb)

/-- The response is taken (R250). -/
theorem leads_respond {x : Scene} (hst : x.blk.st = .rsp) (howned : x.Owned) :
    Leads x { x with
      blk := { x.blk with outPos := 0#6, st := .txt }
      responses := x.responses ++ [x.blk.response] } := by
  refine leads_of_edge howned HostSide.rspReady ?_ ?_ ?_ <;> rintro s rfl h
  · rw [HostSide.rspReady, HostSide.levels_of_done h]
  · rw [clockEdge_of_rsp hst, rspEdge, if_neg (by simp [h])]
  · refine ⟨{ s with
      blk := { s.blk with outPos := 0#6, st := .txt }
      host := s.host.pass.receive s.blk.response }, ?_, rfl, rfl⟩
    rw [clockEdge_of_rsp hst, rspEdge, if_pos h]

/-- A character of the result is taken (R251). -/
theorem leads_send {x : Scene} {c : Byte} (hst : x.blk.st = .txt)
    (hlt : x.blk.outPos < x.blk.outLen) (hc : x.blk.outBuf[x.blk.outPos.toNat]? = some c)
    (howned : x.Owned) :
    Leads x { x with
      blk := { x.blk with outPos := x.blk.outPos + 1#6 }
      texts := x.texts ++ [.char c] } := by
  refine leads_of_edge howned HostSide.toutReady ?_ ?_ ?_ <;> rintro s rfl h
  · rw [HostSide.toutReady, HostSide.levels_of_done h]
  · rw [clockEdge_of_txt hst, txtEdge, if_neg (by simp [h])]
  · change s.blk.outPos < s.blk.outLen at hlt
    change s.blk.outBuf[s.blk.outPos.toNat]? = _ at hc
    refine ⟨{ s with
      blk := { s.blk with outPos := s.blk.outPos + 1#6 }
      host := s.host.pass.receiveText (.char c) }, ?_, rfl, rfl⟩
    rw [clockEdge_of_txt hst, txtEdge, if_pos h, if_pos hlt, hc]

/-- The EOT beat of the result is taken (R251). -/
theorem leads_finish {x : Scene} (hst : x.blk.st = .txt) (heq : x.blk.outPos = x.blk.outLen)
    (howned : x.Owned) :
    Leads x { x with blk := { x.blk with st := .idle }, texts := x.texts ++ [.eot] } := by
  refine leads_of_edge howned HostSide.toutReady ?_ ?_ ?_ <;> rintro s rfl h
  · rw [HostSide.toutReady, HostSide.levels_of_done h]
  · rw [clockEdge_of_txt hst, txtEdge, if_neg (by simp [h])]
  · refine ⟨{ s with
      blk := { s.blk with st := .idle }
      host := s.host.pass.receiveText .eot }, ?_, rfl, rfl⟩
    change s.blk.outPos = s.blk.outLen at heq
    rw [clockEdge_of_txt hst, txtEdge, if_pos h, if_neg (by bv_omega), if_pos heq]

end Sys2Proof.Machine
end

section
/-! Delivering an answer: the response is taken, then the result text and its EOT beat
(70_reset_and_hazards.md R250, R251). -/

namespace Sys2Proof.Machine

open Sys2Proof.Claims

/-- The command is answered in the registers as the record says: what is left is to send the
response and the result text. -/
structure Block.Delivers (b : Block) (a : Answer) : Prop where
  st : b.st = .rsp
  response : b.response = a.response
  text : b.resultText = a.text
  fits : b.outLen.toNat ≤ 36

/-- The rest of the result text and its EOT beat are sent. -/
theorem leads_sendText {x : Scene} (hst : x.blk.st = .txt) (hfits : x.blk.outLen.toNat ≤ 36)
    (hpos : x.blk.outPos.toNat ≤ x.blk.outLen.toNat) (howned : HasOwner x.cmds x.beats) :
    ∃ b, b.st = .idle ∧ Leads x { x with
      blk := b
      texts := x.texts ++
        ((x.blk.resultText.drop x.blk.outPos.toNat).map OutBeat.char ++ [.eot]) } := by
  obtain ⟨n, hn⟩ := Nat.exists_eq_add_of_le hpos
  induction n generalizing x with
  | zero =>
    have hdone : x.blk.resultText.drop x.blk.outPos.toNat = [] := by
      simp [Block.resultText, hn]
    refine ⟨{ x.blk with st := .idle }, rfl, ?_⟩
    rw [hdone]
    exact leads_finish hst (by bv_omega) (.inr howned)
  | succ n ih =>
    have hlt : x.blk.outPos.toNat < 36 := by omega
    have hnext : (x.blk.outPos + 1#6).toNat = x.blk.outPos.toNat + 1 := by bv_omega
    have hchar : x.blk.resultText.drop x.blk.outPos.toNat = x.blk.outBuf[x.blk.outPos.toNat] ::
        x.blk.resultText.drop (x.blk.outPos.toNat + 1) := by
      rw [List.drop_eq_getElem_cons (by simp [Block.resultText]; omega)]
      simp [Block.resultText]
    have hsend := leads_send hst (by bv_omega) (Vector.getElem?_eq_getElem hlt) (.inr howned)
    obtain ⟨b, hb, hrest⟩ := ih
      (x := { x with
        blk := { x.blk with outPos := x.blk.outPos + 1#6 }
        texts := x.texts ++ [.char x.blk.outBuf[x.blk.outPos.toNat]] })
      hst hfits (by simp only [hnext]; omega) howned (by simp only [hnext]; omega)
    refine ⟨b, hb, ?_⟩
    rw [hchar]
    have htext : ({ x.blk with outPos := x.blk.outPos + 1#6 } : Block).resultText =
      x.blk.resultText := rfl
    simp only [hnext, htext, List.append_assoc, List.singleton_append] at hrest
    exact hsend.trans hrest

/-- An answered command sends its response, its text and the EOT beat, and is back in `IDLE`. -/
theorem leads_deliver {x : Scene} {a : Answer} (h : x.blk.Delivers a)
    (howned : HasOwner x.cmds x.beats) :
    ∃ b, b.st = .idle ∧ Leads x { x with
      blk := b
      responses := x.responses ++ [a.response]
      texts := x.texts ++ a.beats } := by
  obtain ⟨hst, hresponse, htext, hfits⟩ := h
  have hrespond := leads_respond hst (.inr howned)
  obtain ⟨b, hb, hsend⟩ := leads_sendText
    (x := { x with
      blk := { x.blk with outPos := 0#6, st := .txt }
      responses := x.responses ++ [x.blk.response] }) rfl hfits (Nat.zero_le _) howned
  refine ⟨b, hb, ?_⟩
  rw [Answer.beats, ← htext, ← hresponse]
  exact hrespond.trans hsend

/-! ## What an answered command delivers -/

/-- The response that shows a status (10_state.md R24): the bad character, the decoder's value and
the formatter's value each with the status and the command that give it a meaning. -/
theorem Block.answer_response (b : Block) (e : Status) : (b.answer e).response =
    { status := e.code
      char := if e = .invalidCharacter then some b.decBadc else none
      acc := if b.opR = opDec32 ∧ e = .ok then some b.decAcc else none
      hexvalid := if b.opR = opDec32 ∧ e = .ok then some b.rHexvalid else none
      uuid := if b.opR = opFrombg ∧ e = .ok then some b.fmtUuid else none
      len := b.outLen } := by
  simp [Block.response, Block.rspStatus, Block.rspChar, Block.rspAcc, Block.rspHexvalid,
    Block.rspUuid, Block.rspLen, Block.answeredOk, Status.code_injective.eq_iff]

theorem Block.resultText_length {b : Block} (h : b.outLen.toNat ≤ 36) :
    b.resultText.length = b.outLen.toNat := by
  simpa [Block.resultText] using h

theorem Block.resultText_of_empty {b : Block} (h : b.outLen = 0#6) : b.resultText = [] := by
  simp [Block.resultText, h]

/-- The record of a status delivers when its fields are those of the response. -/
theorem Block.delivers_answer {b : Block} {e : Status} {a : Answer} (hfits : b.outLen.toNat ≤ 36)
    (htext : b.resultText = a.text) (hstatus : a.status = e)
    (hchar : a.char = if e = .invalidCharacter then some b.decBadc else none)
    (hacc : a.acc = if b.opR = opDec32 ∧ e = .ok then some b.decAcc else none)
    (hhex : a.hexvalid = if b.opR = opDec32 ∧ e = .ok then some b.rHexvalid else none)
    (huuid : a.uuid = if b.opR = opFrombg ∧ e = .ok then some b.fmtUuid else none) :
    (b.answer e).Delivers a where
  st := rfl
  response := by
    rw [answer_response, Answer.response, hstatus, hchar, hacc, hhex, huuid, ← htext,
      resultText_length hfits, BitVec.ofNat_toNat, BitVec.setWidth_eq]
  text := htext
  fits := hfits

theorem Block.delivers_raise {b : Block} {e : Status} (hlen : b.outLen = 0#6) (hok : e ≠ .ok)
    (hbad : e ≠ .invalidCharacter) : (b.answer e).Delivers (.raise e) :=
  delivers_answer (by simp [hlen]) (resultText_of_empty hlen) rfl (by simp [hbad, Answer.raise])
    (by simp [hok, Answer.raise]) (by simp [hok, Answer.raise]) (by simp [hok, Answer.raise])

theorem Block.delivers_raiseChar {b : Block} (hlen : b.outLen = 0#6) :
    (b.answer .invalidCharacter).Delivers (.raiseChar b.decBadc) :=
  delivers_answer (by simp [hlen]) (resultText_of_empty hlen) rfl rfl
    (by simp [Answer.raiseChar, Answer.raise]) (by simp [Answer.raiseChar, Answer.raise])
    (by simp [Answer.raiseChar, Answer.raise])

theorem Block.delivers_okText {b : Block} (hfits : b.outLen.toNat ≤ 36) (hdec : b.opR ≠ opDec32)
    (hfrom : b.opR ≠ opFrombg) : (b.answer .ok).Delivers (.okText b.resultText) :=
  delivers_answer hfits rfl rfl (by simp [Answer.okText, Answer.raise])
    (by simp [Answer.okText, Answer.raise, hdec])
    (by simp [Answer.okText, Answer.raise, hdec]) (by simp [Answer.okText, Answer.raise, hfrom])

end Sys2Proof.Machine
end

section
/-! The run of `ENC32` and `TOBG` from the accepted command to the answer, value by value
(40_base32_encoder.md R100, R105, R106; 42_group_formatter.md R165, R167). -/

namespace Sys2Proof.Machine

open Sys2Proof.Claims

/-! ## The encoder -/

/-- A digit that does not finish the value (40_base32_encoder.md R105). -/
theorem Block.encIter_of_more {b : Block} (hlen : b.encLen ≠ 7#3) (hmore : b.encSh >>> 5 ≠ 0#32) :
    b.encIter = some b.encDigit := by
  rw [Block.encIter, if_neg hlen, if_neg (by exact hmore)]

/-- The encoder comes to the last digit of its value, with the symbols that the loop of `enc32` puts
in front (40_base32_encoder.md R100, R105). -/
theorem leads_lastDigit {x : Scene} {n : Nat} (hst : x.blk.st = .encIter) (henc : x.blk.encoding)
    (hn : x.blk.encLen.toNat + n = 7) (howned : HasOwner x.cmds x.beats) :
    ∃ d : Block, Leads x { x with blk := d } ∧ d.encoding ∧ d.encSh >>> 5 = 0#32 ∧
      d.encDigit.encText = encLoop n x.blk.encSh x.blk.encText ∧
      d = { x.blk with encSh := d.encSh, encSym := d.encSym, encLen := d.encLen } := by
  obtain ⟨hlen, -⟩ := id henc
  have hne : x.blk.encLen ≠ 7#3 := by bv_omega
  induction n generalizing x with
  | zero => omega
  | succ n ih =>
    by_cases hlast : x.blk.encSh >>> 5 = 0#32
    · refine ⟨x.blk, .refl x, henc, hlast, ?_, rfl⟩
      rw [Block.encText_encDigit hne, encLoop, if_pos hlast]
    · have henc' := henc.encDigit hlast
      obtain ⟨hlen', -⟩ := id henc'
      have hnext : (x.blk.encLen + 1#3).toNat = x.blk.encLen.toNat + 1 := by bv_omega
      have hdigit := leads_encIter hst (Block.encIter_of_more hne hlast) (.inr howned)
      obtain ⟨d, hlead, hd, hdone, htext, hframe⟩ := ih
        (x := { x with blk := x.blk.encDigit }) hst henc' (by simp [hnext]; omega) howned hlen'
        (by bv_omega)
      refine ⟨d, hdigit.trans hlead, hd, hdone, ?_, hframe⟩
      rw [htext, encLoop, if_neg hlast, Block.encText_encDigit hne, Block.encDigit_encSh]

theorem Block.encoding.outLen_le {b : Block} (h : b.encoding) : b.outLen.toNat ≤ 24 := by
  obtain ⟨-, -, ⟨-, -, hn⟩ | ⟨-, hg, -, hn⟩⟩ := h <;> omega

/-- The registers at the start of a value: no symbol is made yet, and the result so far is `r`. -/
structure Block.StartsValue (v : BitVec 32) (r : Text) (b : Block) : Prop where
  st : b.st = .encIter
  encoding : b.encoding
  sh : b.encSh = v
  len : b.encLen = 0#3
  text : b.resultText = r

/-- The registers at the end of a value: the last digit is made, the value's text is in the symbol
registers, and nothing else has changed since `b`. -/
structure Block.EndsValue (v : BitVec 32) (r : Text) (b d : Block) : Prop where
  st : d.st = .encIter
  encoding : d.encoding
  last : d.encSh >>> 5 = 0#32
  value : d.encDigit.encText = enc32 v
  text : d.resultText = r
  op : d.opR = b.opR
  seg : d.fmtSeg = b.fmtSeg
  uuid : d.fmtUuid = b.fmtUuid

/-- A value is encoded, up to the step that ends it. -/
theorem leads_value {x : Scene} {v : BitVec 32} {r : Text} (h : x.blk.StartsValue v r)
    (howned : HasOwner x.cmds x.beats) :
    ∃ d b, x.blk.EndsValue v r d ∧ d.encIter = some b ∧ Leads x { x with blk := b } := by
  obtain ⟨hst, henc, hsh, hlen, hr⟩ := h
  obtain ⟨d, hlead, hd, hlast, hvalue, hframe⟩ :=
    leads_lastDigit (n := 7) hst henc (by simp [hlen]) howned
  obtain ⟨b, hb⟩ := Option.isSome_iff_exists.mp hd.encIter_isSome
  have hempty : x.blk.encText = [] := by simp [Block.encText, hlen]
  rw [hsh, hempty] at hvalue
  have hst' : d.st = .encIter := (congrArg Block.st hframe).trans hst
  have hstep := leads_encIter (x := { x with blk := d }) hst' hb (.inr howned)
  exact ⟨d, b, ⟨hst', hd, hlast, hvalue, (congrArg Block.resultText hframe).trans hr,
    (congrArg Block.opR hframe :), (congrArg Block.fmtSeg hframe :),
    (congrArg Block.fmtUuid hframe :)⟩, hb, hlead.trans hstep⟩

/-- The last value of a command is answered with its text after what the result held. -/
theorem Block.EndsValue.delivers {b d t : Block} {v : BitVec 32} {r : Text} (h : b.EndsValue v r d)
    (hb : d.encIter = some t) (hlast : d.encDigit.lastValue = true) :
    t.Delivers (.okText (r ++ enc32 v)) := by
  obtain ⟨hne, -⟩ | ⟨-, -, rfl⟩ | ⟨-, hnot, -⟩ := Block.encIter_cases hb
  · exact absurd h.last hne
  · have hroom : d.encDigit.outLen.toNat + d.encDigit.encText.length ≤ 36 := by
      have hout := h.encoding.outLen_le
      have htext := d.encDigit.encText_length_le
      rw [Block.encDigit_outLen]; omega
    have htext : (d.encDigit.appendText d.encDigit.encText).resultText = r ++ enc32 v := by
      rw [Block.resultText_appendText hroom, h.value, ← h.text]; rfl
    have hop : d.opR ≠ opDec32 ∧ d.opR ≠ opFrombg := by
      obtain ⟨-, -, ⟨hop, -⟩ | ⟨hop, -⟩⟩ := h.encoding <;> rw [hop] <;> decide
    rw [← htext]
    exact Block.delivers_okText (h.encoding.finish_answered hlast).outLen_le hop.1 hop.2
  · exact absurd hlast (by simp [hnot])

/-- After one of the groups 0 to 2 of `TOBG` and its hyphen, the next group starts
(42_group_formatter.md R167). -/
theorem Block.EndsValue.startsNext {b d t : Block} {v : BitVec 32} {r : Text}
    (h : b.EndsValue v r d) (hb : d.encIter = some t)
    (hlast : d.encDigit.lastValue = false) :
    t.StartsValue (group b.fmtUuid (b.fmtSeg.toNat + 1)) (r ++ enc32 v ++ [hyphenChar]) ∧
      t.opR = b.opR ∧ t.fmtSeg = b.fmtSeg + 1#3 ∧ t.fmtUuid = b.fmtUuid := by
  obtain ⟨hne, -⟩ | ⟨-, hnot, -⟩ | ⟨-, -, hseg, rfl⟩ := Block.encIter_cases hb
  · exact absurd h.last hne
  · exact absurd hlast (by simp [hnot])
  · have hroom : d.encDigit.outLen.toNat + (d.encDigit.encText ++ [hyphenChar]).length ≤ 36 := by
      have hout := h.encoding.outLen_le
      have htext := d.encDigit.encText_length_le
      rw [Block.encDigit_outLen, List.length_append, List.length_singleton]; omega
    have htext : (d.encDigit.appendText (d.encDigit.encText ++ [hyphenChar])).resultText =
        r ++ enc32 v ++ [hyphenChar] := by
      rw [Block.resultText_appendText hroom, h.value, ← h.text, List.append_assoc]; rfl
    exact ⟨⟨h.st, h.encoding.nextGroup hlast hseg rfl, by simp [h.seg, h.uuid], rfl, htext⟩,
      h.op, by simp [h.seg], h.uuid⟩

/-! ## `TOBG` -/

/-- `TOBG(U)` is at the start of group `g`, and the result so far is `r`. -/
structure Block.AtGroup (u : BitVec 128) (g : Nat) (r : Text) (b : Block) : Prop where
  value : b.StartsValue (group u g) r
  op : b.opR = opTobg
  seg : b.fmtSeg.toNat = g
  uuid : b.fmtUuid = u

theorem Block.lastValue_of_tobg {b : Block} (hop : b.opR = opTobg) :
    b.lastValue = (b.fmtSeg == 3#3) := by
  rw [Block.lastValue, hop]; rfl

/-- One of the groups 0 to 2 and its hyphen. -/
theorem leads_nextGroup {x : Scene} {u : BitVec 128} {g : Nat} {r : Text}
    (h : x.blk.AtGroup u g r) (hg : g < 3) (howned : HasOwner x.cmds x.beats) :
    ∃ b, b.AtGroup u (g + 1) (r ++ enc32 (group u g) ++ [hyphenChar]) ∧
      Leads x { x with blk := b } := by
  obtain ⟨hvalue, hop, hseg, huuid⟩ := h
  obtain ⟨d, b, hd, hb, hlead⟩ := leads_value hvalue howned
  have hlast : d.encDigit.lastValue = false := by
    rw [Block.lastValue_of_tobg (b := d.encDigit) (hd.op.trans hop), Block.encDigit_fmtSeg, hd.seg]
    exact beq_false_of_ne (by bv_omega)
  obtain ⟨hstart, hop', hseg', huuid'⟩ := hd.startsNext hb hlast
  rw [huuid, hseg] at hstart
  exact ⟨b, ⟨hstart, hop'.trans hop, by bv_omega, huuid'.trans huuid⟩, hlead⟩

/-- The last group, which is answered. -/
theorem leads_lastGroup {x : Scene} {u : BitVec 128} {r : Text} (h : x.blk.AtGroup u 3 r)
    (howned : HasOwner x.cmds x.beats) :
    ∃ b, b.Delivers (.okText (r ++ enc32 (group u 3))) ∧ Leads x { x with blk := b } := by
  obtain ⟨hvalue, hop, hseg, -⟩ := h
  obtain ⟨d, b, hd, hb, hlead⟩ := leads_value hvalue howned
  have hlast : d.encDigit.lastValue = true := by
    rw [Block.lastValue_of_tobg (b := d.encDigit) (hd.op.trans hop), Block.encDigit_fmtSeg, hd.seg]
    exact beq_iff_eq.mpr (BitVec.eq_of_toNat_eq hseg)
  exact ⟨b, hd.delivers hb hlast, hlead⟩

/-- The four groups, one after the other (42_group_formatter.md R165). -/
theorem leads_tobg {x : Scene} {u : BitVec 128} (h : x.blk.AtGroup u 0 [])
    (howned : HasOwner x.cmds x.beats) :
    ∃ b, b.Delivers (.okText (tobgText u)) ∧ Leads x { x with blk := b } := by
  obtain ⟨b1, h1, hlead1⟩ := leads_nextGroup h (by decide) howned
  obtain ⟨b2, h2, hlead2⟩ := leads_nextGroup (x := { x with blk := b1 }) h1 (by decide) howned
  obtain ⟨b3, h3, hlead3⟩ := leads_nextGroup (x := { x with blk := b2 }) h2 (by decide) howned
  obtain ⟨b, hb, hlead⟩ := leads_lastGroup (x := { x with blk := b3 }) h3 howned
  refine ⟨b, ?_, hlead1.trans (hlead2.trans (hlead3.trans hlead))⟩
  simpa [tobgText] using hb

/-! ## `ENC32` -/

theorem leads_enc32 {x : Scene} {v : BitVec 32} (h : x.blk.StartsValue v [])
    (hop : x.blk.opR = opEnc32) (howned : HasOwner x.cmds x.beats) :
    ∃ b, b.Delivers (.okText (enc32 v)) ∧ Leads x { x with blk := b } := by
  obtain ⟨d, b, hd, hb, hlead⟩ := leads_value h howned
  have hlast : d.encDigit.lastValue = true := by
    simp [Block.lastValue, hd.op, hop]
  exact ⟨b, hd.delivers hb hlast, hlead⟩

end Sys2Proof.Machine
end

section
/-! The run of a text, and `DEC32` from the accepted command to the answer
(41_base32_decoder.md R130 to R138). -/

namespace Sys2Proof.Machine

open Sys2Proof.Claims

/-! ## Reading a text -/

/-- `f` is what one character of the running text does to the registers. -/
def Block.Reads (p : RangePolicy) (st : SeqState) (f : Block → Byte → Block) : Prop :=
  ∀ b c, b.st = st → (f b c).st = st ∧ afterBeat p (beatWord 0#1 c) b = some (f b c)

/-- The characters of a text are taken, one after the other. -/
theorem leads_chars {x : Scene} {f : Block → Byte → Block} {t : Text} {beats : List BeatWord}
    (hst : x.blk.st = .decText ∨ x.blk.st = .fromBgText) (hf : Block.Reads x.policy x.blk.st f)
    (hbeats : x.beats = t.map (beatWord 0#1) ++ beats) :
    (t.foldl f x.blk).st = x.blk.st ∧
      Leads x { x with blk := t.foldl f x.blk, beats := beats } := by
  induction t generalizing x with
  | nil =>
    refine ⟨rfl, ?_⟩
    rw [← show x.beats = beats from hbeats]
    exact .refl x
  | cons c cs ih =>
    obtain ⟨hst', hb⟩ := hf x.blk c rfl
    have hbeat := leads_beat hst hbeats hb
    obtain ⟨hend, hrest⟩ := ih
      (x := { x with blk := f x.blk c, beats := cs.map (beatWord 0#1) ++ beats })
      (hst'.symm ▸ hst) (by rw [hst']; exact hf) rfl
    exact ⟨hend.trans hst', hbeat.trans hrest⟩

/-- A whole text with its EOT beat is taken. -/
theorem leads_text {x : Scene} {f : Block → Byte → Block} {t : Text} {e : Byte}
    {beats : List BeatWord} {b : Block} (hst : x.blk.st = .decText ∨ x.blk.st = .fromBgText)
    (hf : Block.Reads x.policy x.blk.st f) (hbeats : x.beats = textBeats e t ++ beats)
    (hb : (t.foldl f x.blk).st = x.blk.st →
      afterBeat x.policy (beatWord 1#1 e) (t.foldl f x.blk) = some b) :
    Leads x { x with blk := b, beats := beats } := by
  rw [textBeats, List.append_assoc] at hbeats
  obtain ⟨hend, hchars⟩ := leads_chars hst hf hbeats
  exact hchars.trans (leads_beat (hend.symm ▸ hst) rfl (hb hend))

/-! ## `DEC32` -/

theorem Block.reads_lookUp (p : RangePolicy) : Block.Reads p .decText fun b c => b.lookUp c := by
  intro b c hst
  obtain ⟨hst', -⟩ := b.lookUp_frame c
  exact ⟨hst'.trans hst, by simp [afterBeat_of_decText hst]⟩

/-- The characters of a text are looked up one after the other. -/
def Block.lookUpAll (t : Text) (b : Block) : Block := t.foldl (fun b c => b.lookUp c) b

theorem Block.lookUpAll_cons (c : Byte) (cs : Text) (b : Block) :
    b.lookUpAll (c :: cs) = (b.lookUp c).lookUpAll cs := rfl

theorem Block.lookUpAll_of_bad {b : Block} (hbad : b.decBad = true) (t : Text) :
    b.lookUpAll t = b := by
  induction t with
  | nil => rfl
  | cons c cs ih => rw [lookUpAll_cons, lookUp_of_bad hbad, ih]

/-- A text of symbols leaves the accumulator of `dec` (41_base32_decoder.md R131, R133). -/
theorem Block.lookUpAll_of_acc {b : Block} {t : Text} {a : BitVec 64} (hbad : b.decBad = false)
    (h : decFrom b.decAcc t = .acc a) :
    b.lookUpAll t = { b with decAcc := a, segSyms := b.segSyms + t.length } := by
  induction t generalizing b with
  | nil => cases h; rfl
  | cons c cs ih =>
    cases hrev : rev c with
    | none => simp [decFrom, hrev] at h
    | some i =>
      simp only [decFrom, hrev] at h
      have hrest := ih (b := { b with decAcc := pushDigit b.decAcc i, segSyms := b.segSyms + 1 })
        hbad h
      rw [lookUpAll_cons, lookUp_symbol hbad hrev, hrest]
      simp only [List.length_cons, Nat.add_assoc, Nat.add_comm 1]

/-- A text that is not one of symbols leaves the character of `dec` (41_base32_decoder.md R131,
R134, R135). -/
theorem Block.lookUpAll_of_invalid {b : Block} {t : Text} {c : Byte} (hbad : b.decBad = false)
    (h : decFrom b.decAcc t = .bad c) : ∃ a n,
    b.lookUpAll t = { b with decAcc := a, segSyms := n, decBad := true, decBadc := c } := by
  induction t generalizing b with
  | nil => cases h
  | cons x xs ih =>
    cases hrev : rev x with
    | none =>
      simp only [decFrom, hrev, Decoded.bad.injEq] at h
      rw [lookUpAll_cons, lookUp_invalid hbad hrev, lookUpAll_of_bad rfl, h]
      exact ⟨b.decAcc, b.segSyms, rfl⟩
    | some i =>
      simp only [decFrom, hrev] at h
      rw [lookUpAll_cons, lookUp_symbol hbad hrev]
      exact ih hbad h

/-- The EOT of a `DEC32` text of symbols answers with the accumulator and, if it fits 32 bits, its
hex digits (41_base32_decoder.md R136, R138). -/
theorem Block.endDecText_delivers_acc {b : Block} {t : Text} (hdec : dec t = .acc b.decAcc)
    (hop : b.opR = opDec32) (hbad : b.decBad = false) : b.endDecText.Delivers (decAnswer t) := by
  have hfrom : b.opR ≠ opFrombg := by rw [hop]; decide
  rw [decAnswer, hdec]
  cases hwide : isWide b.decAcc with
  | true =>
    rw [Block.endDecText_of_wide hbad hwide]
    refine delivers_answer (by simp) ?_ rfl rfl ?_ ?_ ?_
    · exact (Block.resultText_of_empty (by rfl)).trans (by simp [hwide, Answer.okText])
    · simp [hop]
    · simp [hop, hwide]
    · simp [hfrom, Answer.okText, Answer.raise]
  | false =>
    rw [Block.endDecText_of_fits hbad hwide]
    refine delivers_answer (by simp) ?_ rfl rfl ?_ ?_ ?_
    · have htext := resultText_setText (b := b) (t := hex8 (b.decAcc.extractLsb' 0 32)) (by simp)
      simpa only [resultText, Answer.okText, hwide, Bool.false_eq_true, if_false] using htext
    · simp [hop]
    · simp [hop, hwide]
    · simp [hfrom, Answer.okText, Answer.raise]

/-- The EOT of any other `DEC32` text answers with its first bad character. -/
theorem Block.endDecText_delivers_bad {b : Block} {t : Text} (hdec : dec t = .bad b.decBadc)
    (hbad : b.decBad = true) (hout : b.outLen = 0#6) : b.endDecText.Delivers (decAnswer t) := by
  rw [decAnswer, hdec, endDecText_of_bad hbad]
  exact delivers_raiseChar hout

/-- A `DEC32` text that is read from the start answers as `DEC32` does. -/
theorem Block.endDecText_delivers {b : Block} (t : Text) (hop : b.opR = opDec32)
    (hbad : b.decBad = false) (hacc : b.decAcc = 0#64) (hout : b.outLen = 0#6) :
    (b.lookUpAll t).endDecText.Delivers (decAnswer t) := by
  cases hdec : dec t with
  | bad c =>
    obtain ⟨a, n, hread⟩ := lookUpAll_of_invalid (t := t) hbad (by rw [hacc]; exact hdec)
    rw [hread]
    exact endDecText_delivers_bad hdec rfl hout
  | acc a =>
    rw [lookUpAll_of_acc hbad (by rw [hacc]; exact hdec)]
    exact endDecText_delivers_acc hdec hop hbad

theorem leads_dec32 {x : Scene} {t : Text} {e : Byte} {beats : List BeatWord}
    (hst : x.blk.st = .decText) (hop : x.blk.opR = opDec32) (hbad : x.blk.decBad = false)
    (hacc : x.blk.decAcc = 0#64) (hout : x.blk.outLen = 0#6)
    (hbeats : x.beats = textBeats e t ++ beats) :
    ∃ b, b.Delivers (decAnswer t) ∧ Leads x { x with blk := b, beats := beats } := by
  refine ⟨_, Block.endDecText_delivers t hop hbad hacc hout,
    leads_text (.inl hst) (hst ▸ Block.reads_lookUp x.policy) hbeats fun hend => ?_⟩
  rw [afterBeat_of_decText (hend.trans hst), Laws.beatEot_beatWord, if_pos rfl]
  rfl

end Sys2Proof.Machine
end

section
/-! `FROMBG` from the accepted command to the answer (42_group_formatter.md R172 to R179, R184). The
text is cut at its hyphens: each of the first four segments is read from a zero accumulator as a
`DEC32` text is, and committed. -/

namespace Sys2Proof.Machine

open Sys2Proof.Claims

/-! ## The segments of a text -/

/-- A text has one segment more than hyphens (42_group_formatter.md R170). -/
theorem segments_length (t : Text) : (segments t).length = t.count hyphenChar + 1 := by
  induction t with
  | nil => rfl
  | cons c cs ih =>
    by_cases hc : c = hyphenChar
    · rw [segments, if_pos hc, List.length_cons, ih, hc, List.count_cons_self]
    · rw [segments, if_neg hc, List.count_cons_of_ne hc, ← ih]
      cases hs : segments cs with
      | nil => simp [hs] at ih
      | cons g gs => rfl

/-- The first segment ends the text, or a hyphen and the other segments follow. -/
theorem segments_eq_cons {t s : Text} {rest : List Text} (h : segments t = s :: rest) :
    hyphenChar ∉ s ∧
      ((rest = [] ∧ t = s) ∨ ∃ t', segments t' = rest ∧ t = s ++ hyphenChar :: t') := by
  induction t generalizing s with
  | nil => cases h; exact ⟨List.not_mem_nil, .inl ⟨rfl, rfl⟩⟩
  | cons c cs ih =>
    by_cases hc : c = hyphenChar
    · rw [segments, if_pos hc] at h
      cases h
      exact ⟨List.not_mem_nil, .inr ⟨cs, rfl, by rw [hc]; rfl⟩⟩
    · rw [segments, if_neg hc] at h
      cases hs : segments cs with
      | nil => exact absurd (segments_length cs) (by simp [hs])
      | cons g gs =>
        rw [hs] at h
        cases h
        obtain ⟨hg, hcs⟩ := ih hs
        refine ⟨fun hm => ?_, ?_⟩
        · obtain hm | hm := List.mem_cons.mp hm
          · exact hc hm.symm
          · exact hg hm
        · obtain ⟨hrest, rfl⟩ | ⟨t', ht', rfl⟩ := hcs
          · exact .inl ⟨hrest, rfl⟩
          · exact .inr ⟨t', ht', rfl⟩

/-- The layout of a text with at least four segments. -/
theorem segments_eq_four {t s0 s1 s2 s3 : Text} {rest : List Text}
    (h : segments t = s0 :: s1 :: s2 :: s3 :: rest) :
    (hyphenChar ∉ s0 ∧ hyphenChar ∉ s1 ∧ hyphenChar ∉ s2 ∧ hyphenChar ∉ s3) ∧
    ∃ tail : Text, (tail = [] ∨ ∃ t', tail = hyphenChar :: t') ∧
      t = s0 ++ hyphenChar :: (s1 ++ hyphenChar :: (s2 ++ hyphenChar :: (s3 ++ tail))) := by
  obtain ⟨h0, ⟨hnil, -⟩ | ⟨t1, ht1, rfl⟩⟩ := segments_eq_cons h
  · cases hnil
  obtain ⟨h1, ⟨hnil, -⟩ | ⟨t2, ht2, rfl⟩⟩ := segments_eq_cons ht1
  · cases hnil
  obtain ⟨h2, ⟨hnil, -⟩ | ⟨t3, ht3, rfl⟩⟩ := segments_eq_cons ht2
  · cases hnil
  obtain ⟨h3, ⟨-, rfl⟩ | ⟨t4, -, rfl⟩⟩ := segments_eq_cons ht3
  · exact ⟨⟨h0, h1, h2, h3⟩, [], .inl rfl, by rw [List.append_nil]⟩
  · exact ⟨⟨h0, h1, h2, h3⟩, hyphenChar :: t4, .inr ⟨t4, rfl⟩, rfl⟩

/-! ## Reading a `FROMBG` text -/

/-- The registers after the characters of a `FROMBG` text. -/
def Block.readFromBg (t : Text) (b : Block) : Block := t.foldl (fun b c => fromBgChar c b) b

theorem Block.readFromBg_cons (c : Byte) (cs : Text) (b : Block) :
    b.readFromBg (c :: cs) = (fromBgChar c b).readFromBg cs := rfl

theorem Block.readFromBg_append (t t' : Text) (b : Block) :
    b.readFromBg (t ++ t') = (b.readFromBg t).readFromBg t' := List.foldl_append

theorem fromBgChar_hyphen (b : Block) : fromBgChar hyphenChar b = b.hyphenStep := if_pos rfl

/-- A character of segments 0 to 3 is looked up (42_group_formatter.md R177). -/
theorem fromBgChar_of_lt {b : Block} {c : Byte} (hc : c ≠ hyphenChar) (hs : c ≠ spaceChar)
    (hseg : b.fmtSeg < 4#3) : fromBgChar c b = b.lookUp c := by
  rw [fromBgChar, if_neg hc, if_neg hs, Block.segmentChar, if_pos hseg]

/-- After the fourth hyphen only a space counts (42_group_formatter.md R174, R175). -/
theorem fromBgChar_of_ge {b : Block} {c : Byte} (hs : c ≠ spaceChar) (hseg : ¬ b.fmtSeg < 4#3) :
    fromBgChar c b = b := by
  rw [fromBgChar, if_neg hs, Block.hyphenStep, if_neg hseg, Block.segmentChar, if_neg hseg,
    ite_self]

theorem Block.hyphenStep_of_lt {b : Block} (hseg : b.fmtSeg < 4#3) : b.hyphenStep =
    { b.commit b.fmtSeg.toNat with decAcc := 0#64, segSyms := 0, fmtSeg := b.fmtSeg + 1#3 } :=
  if_pos hseg

/-- What a character leaves alone, and what it does to the flags. -/
theorem fromBgChar_flags (c : Byte) (b : Block) :
    (fromBgChar c b).st = b.st ∧ (fromBgChar c b).opR = b.opR ∧
    (fromBgChar c b).outLen = b.outLen ∧
    (fromBgChar c b).fmtSpace = (b.fmtSpace || c == spaceChar) ∧
    (fromBgChar c b).fmtSeg =
      if c = hyphenChar ∧ b.fmtSeg < 4#3 then b.fmtSeg + 1#3 else b.fmtSeg := by
  by_cases hh : c = hyphenChar
  · subst hh
    rw [fromBgChar_hyphen]
    obtain ⟨hseg, h⟩ | ⟨hseg, h⟩ := b.hyphenStep_cases <;> rw [h] <;> simp +decide [hseg]
  by_cases hs : c = spaceChar
  · subst hs
    simp +decide [fromBgChar]
  by_cases hseg : b.fmtSeg < 4#3
  · obtain ⟨hst, hop, hlen, hg, -, hspace, -⟩ := b.lookUp_frame c
    rw [fromBgChar_of_lt hh hs hseg]
    simp [hst, hop, hlen, hg, hspace, hh, hs]
  · rw [fromBgChar_of_ge hs hseg]
    simp [hh, hs]

/-- What a text leaves alone, and what it does to the flags: any space is marked, and `fmt_seg`
counts the hyphens up to four (42_group_formatter.md R173, R174; 10_state.md R38). -/
theorem Block.readFromBg_flags (t : Text) (b : Block) (hseg : b.fmtSeg.toNat ≤ 4) :
    (b.readFromBg t).outLen = b.outLen ∧ (b.readFromBg t).opR = b.opR ∧
    (b.readFromBg t).fmtSpace = (b.fmtSpace || decide (spaceChar ∈ t)) ∧
    (b.readFromBg t).fmtSeg.toNat = min 4 (b.fmtSeg.toNat + t.count hyphenChar) := by
  induction t generalizing b with
  | nil => simp [readFromBg, hseg]
  | cons c cs ih =>
    obtain ⟨-, hop, hlen, hspace, hseg'⟩ := fromBgChar_flags c b
    have hcount : (fromBgChar c b).fmtSeg.toNat =
        min 4 (b.fmtSeg.toNat + if c = hyphenChar then 1 else 0) := by
      rw [hseg']
      by_cases hc : c = hyphenChar
      · by_cases hlt : b.fmtSeg < 4#3
        · rw [if_pos ⟨hc, hlt⟩, if_pos hc]; bv_omega
        · rw [if_neg fun h => hlt h.2, if_pos hc]; bv_omega
      · rw [if_neg fun h => hc h.1, if_neg hc]; omega
    obtain ⟨hlen', hop', hspace', hcount'⟩ := ih (fromBgChar c b) (by omega)
    rw [readFromBg_cons]
    refine ⟨hlen'.trans hlen, hop'.trans hop, ?_, ?_⟩
    · rw [hspace', hspace]
      simp [Bool.or_assoc, beq_eq_decide, eq_comm]
    · rw [hcount', hcount, List.count_cons]
      simp only [beq_iff_eq]
      omega

/-- The first bad character stays (41_base32_decoder.md R135; 10_state.md R40). -/
theorem Block.readFromBg_of_bad {b : Block} (hbad : b.decBad = true) (t : Text) :
    (b.readFromBg t).decBad = true ∧ (b.readFromBg t).decBadc = b.decBadc := by
  induction t generalizing b with
  | nil => exact ⟨hbad, rfl⟩
  | cons c cs ih =>
    have hchar : (fromBgChar c b).decBad = true ∧ (fromBgChar c b).decBadc = b.decBadc := by
      unfold fromBgChar Block.segmentChar
      split_ifs
      · obtain ⟨-, h⟩ | ⟨-, h⟩ := b.hyphenStep_cases <;> rw [h] <;> exact ⟨hbad, rfl⟩
      · exact ⟨hbad, rfl⟩
      · rw [lookUp_of_bad hbad]; exact ⟨hbad, rfl⟩
      · exact ⟨hbad, rfl⟩
    obtain ⟨hbad', hchar'⟩ := hchar
    obtain ⟨h, h'⟩ := ih hbad'
    exact ⟨h, h'.trans hchar'⟩

/-- A whole segment among the first four is looked up. -/
theorem Block.readFromBg_segment {b : Block} {s : Text} (hs : hyphenChar ∉ s)
    (hspace : spaceChar ∉ s) (hseg : b.fmtSeg < 4#3) : b.readFromBg s = b.lookUpAll s := by
  induction s generalizing b with
  | nil => rfl
  | cons c cs ih =>
    obtain ⟨hc, hcs⟩ := not_or.mp (mt List.mem_cons.mpr hs)
    obtain ⟨hc', hcs'⟩ := not_or.mp (mt List.mem_cons.mpr hspace)
    obtain ⟨-, -, -, hg, -⟩ := b.lookUp_frame c
    rw [readFromBg_cons, lookUpAll_cons, fromBgChar_of_lt (Ne.symm hc) (Ne.symm hc') hseg]
    exact ih hcs hcs' (hg.symm ▸ hseg)

/-- After the fourth hyphen a text without a space changes nothing (42_group_formatter.md R175). -/
theorem Block.readFromBg_of_ge {b : Block} {t : Text} (hspace : spaceChar ∉ t)
    (hseg : ¬ b.fmtSeg < 4#3) : b.readFromBg t = b := by
  induction t with
  | nil => rfl
  | cons c cs ih =>
    obtain ⟨hc, hcs⟩ := not_or.mp (mt List.mem_cons.mpr hspace)
    rw [readFromBg_cons, fromBgChar_of_ge (Ne.symm hc) hseg, ih hcs]

/-! ## The committed segments -/

/-- The segments `segs` are committed, with the accumulators `accs`: their groups are in `fmt_uuid`
and the range flags speak of them (42_group_formatter.md R176). -/
structure Block.Committed (segs : List Text) (accs : List (BitVec 64)) (b : Block) : Prop where
  same : accs.length = segs.length
  wide : b.fmtWide = accs.any isWide
  long : b.fmtLong = segs.any fun s => decide (7 < s.length)
  groups : ∀ g (h : g < accs.length), group b.fmtUuid g = accs[g].extractLsb' 0 32

/-- The segments `segs` are committed, and of the next one the symbols `cur` are read, with the
accumulator `a`. -/
structure Block.InSegment (segs : List Text) (accs : List (BitVec 64)) (cur : Text) (a : BitVec 64)
    (b : Block) : Prop where
  committed : b.Committed segs accs
  seg : b.fmtSeg.toNat = segs.length
  bad : b.decBad = false
  acc : b.decAcc = a
  syms : b.segSyms = cur.length

section
variable {b : Block} {segs : List Text} {accs : List (BitVec 64)} {s : Text} {a : BitVec 64}

theorem Block.InSegment.seg_lt (h : b.InSegment segs accs s a) (hlt : segs.length < 4) :
    b.fmtSeg < 4#3 := by
  have hseg := h.seg
  bv_omega

/-- A segment of symbols is read. -/
theorem Block.InSegment.read (h : b.InSegment segs accs [] 0#64) (hlt : segs.length < 4)
    (hs : hyphenChar ∉ s) (hspace : spaceChar ∉ s) (hdec : dec s = .acc a) :
    (b.readFromBg s).InSegment segs accs s a := by
  obtain ⟨⟨hsame, hwide, hlong, hgroups⟩, hseg, hbad, hacc, hsyms⟩ := id h
  rw [readFromBg_segment hs hspace (h.seg_lt hlt),
    lookUpAll_of_acc hbad (by rw [hacc]; exact hdec)]
  exact ⟨⟨hsame, hwide, hlong, hgroups⟩, hseg, hbad, rfl, by simp [hsyms]⟩

/-- A segment with a bad character is read. -/
theorem Block.InSegment.read_invalid {c : Byte} (h : b.InSegment segs accs [] 0#64)
    (hlt : segs.length < 4) (hs : hyphenChar ∉ s) (hspace : spaceChar ∉ s)
    (hdec : dec s = .bad c) :
    (b.readFromBg s).decBad = true ∧ (b.readFromBg s).decBadc = c := by
  obtain ⟨n, k, hread⟩ := lookUpAll_of_invalid (b := b) (t := s) h.bad (by rw [h.acc]; exact hdec)
  rw [readFromBg_segment hs hspace (h.seg_lt hlt), hread]
  exact ⟨rfl, rfl⟩

/-- A segment is committed (42_group_formatter.md R176). -/
theorem Block.InSegment.commit (h : b.InSegment segs accs s a) (hlt : segs.length < 4) :
    (b.commit b.fmtSeg.toNat).Committed (segs ++ [s]) (accs ++ [a]) where
  same := by simp [h.committed.same]
  wide := by simp [h.committed.wide, h.acc]
  long := by simp [h.committed.long, h.syms]
  groups g hg := by
    have hsame := h.committed.same
    rw [List.length_append, List.length_singleton] at hg
    rw [Block.commit_fmtUuid, group_putGroup _ _ _ _ (by omega), h.acc, h.seg]
    by_cases hlast : g = segs.length
    · rw [if_pos hlast, List.getElem_append_right (by omega)]
      simp
    · have hg' : g < accs.length := by omega
      rw [if_neg hlast, List.getElem_append_left hg', h.committed.groups g hg']

/-- The hyphen of a segment is read (42_group_formatter.md R174). -/
theorem Block.InSegment.hyphen (h : b.InSegment segs accs s a) (hlt : segs.length < 4) :
    (b.readFromBg [hyphenChar]).InSegment (segs ++ [s]) (accs ++ [a]) [] 0#64 := by
  obtain ⟨hsame, hwide, hlong, hgroups⟩ := h.commit hlt
  have hseg := h.seg
  rw [readFromBg_cons, fromBgChar_hyphen, hyphenStep_of_lt (h.seg_lt hlt)]
  refine ⟨⟨hsame, hwide, hlong, hgroups⟩, ?_, h.bad, rfl, rfl⟩
  rw [List.length_append, List.length_singleton]
  exact (by bv_omega : (b.fmtSeg + 1#3).toNat = segs.length + 1)

/-- A segment of symbols and its hyphen are read. -/
theorem Block.InSegment.next (h : b.InSegment segs accs [] 0#64) (hlt : segs.length < 4)
    (hs : hyphenChar ∉ s) (hspace : spaceChar ∉ s) (hdec : dec s = .acc a) (rest : Text) :
    ∃ b' : Block, b'.InSegment (segs ++ [s]) (accs ++ [a]) [] 0#64 ∧
      b.readFromBg (s ++ hyphenChar :: rest) = b'.readFromBg rest :=
  ⟨_, (h.read hlt hs hspace hdec).hyphen hlt, readFromBg_append _ _ _⟩

/-- From a segment with a bad character on, `InvalidCharacter` is what the text comes to. -/
theorem Block.InSegment.invalid {c : Byte} (h : b.InSegment segs accs [] 0#64)
    (hlt : segs.length < 4) (hs : hyphenChar ∉ s) (hspace : spaceChar ∉ s)
    (hdec : dec s = .bad c) (rest : Text) :
    (b.readFromBg (s ++ rest)).decBad = true ∧ (b.readFromBg (s ++ rest)).decBadc = c := by
  obtain ⟨hbad, hbadc⟩ := h.read_invalid hlt hs hspace hdec
  obtain ⟨hbad', hbadc'⟩ := readFromBg_of_bad hbad rest
  rw [readFromBg_append]
  exact ⟨hbad', hbadc'.trans hbadc⟩

/-- The fourth segment is committed at EOT, or at its hyphen, after which the text is ignored
(42_group_formatter.md R175, R178). -/
theorem Block.InSegment.last {rest : Text} (h : b.InSegment segs accs s a)
    (hlen : segs.length = 3) (hspace : spaceChar ∉ rest)
    (hrest : rest = [] ∨ ∃ t, rest = hyphenChar :: t) :
    (b.readFromBg rest).decBad = false ∧
      (b.readFromBg rest).commitLast.Committed (segs ++ [s]) (accs ++ [a]) := by
  obtain rfl | ⟨t, rfl⟩ := hrest
  · refine ⟨h.bad, ?_⟩
    rw [show b.readFromBg [] = b from rfl, commitLast, if_pos (h.seg_lt (by omega))]
    exact h.commit (by omega)
  · have hnext := h.hyphen (by omega)
    have hseg := hnext.seg
    rw [List.length_append, List.length_singleton] at hseg
    have hge : ¬ (b.readFromBg [hyphenChar]).fmtSeg < 4#3 := by bv_omega
    have hread : b.readFromBg (hyphenChar :: t) = b.readFromBg [hyphenChar] :=
      readFromBg_of_ge (fun hm => hspace (List.mem_cons_of_mem _ hm)) hge
    rw [hread, commitLast, if_neg hge]
    exact ⟨hnext.bad, hnext.committed⟩

end

/-- Four groups in their slices are the joined value (42_group_formatter.md R161). -/
theorem Block.Committed.uuid {b : Block} {segs : List Text} {a0 a1 a2 a3 : BitVec 64}
    (h : b.Committed segs [a0, a1, a2, a3]) :
    b.fmtUuid = joinGroups (a0.extractLsb' 0 32) (a1.extractLsb' 0 32) (a2.extractLsb' 0 32)
      (a3.extractLsb' 0 32) := by
  rw [← joinGroups_group b.fmtUuid, h.groups 0 (by simp), h.groups 1 (by simp),
    h.groups 2 (by simp), h.groups 3 (by simp)]
  rfl

/-! ## The EOT of a `FROMBG` text -/

section
variable {b : Block} {p : RangePolicy}

theorem Block.endFromBgText_error {e : Status} (hout : b.outLen = 0#6) 
    (hs : fromBgStatus p b.commitLast = some e) (hok : e ≠ .ok) (hbad : e ≠ .invalidCharacter) :
    Option.Rel Block.Delivers (b.endFromBgText p) (some (.raise e)) := by
  obtain ⟨-, hlen, -⟩ := b.commitLast_frame
  rw [endFromBgText_of_error hs hok]
  exact .some (delivers_raise (hlen.trans hout) hok hbad)

/-- `InvalidFormat` for a space (42_group_formatter.md R178). -/
theorem Block.endFromBgText_of_space (hout : b.outLen = 0#6) (hspace : b.fmtSpace = true) :
    Option.Rel Block.Delivers (b.endFromBgText p) (some (.raise .invalidFormat)) := by
  obtain ⟨-, -, -, -, hspace', -⟩ := b.commitLast_frame
  exact endFromBgText_error hout (by rw [fromBgStatus, if_pos (hspace'.trans hspace)])
    (by decide) (by decide)

/-- `InvalidFormat` for too few segments. -/
theorem Block.endFromBgText_of_short (hout : b.outLen = 0#6) (hspace : b.fmtSpace = false)
    (hseg : b.fmtSeg < 3#3) :
    Option.Rel Block.Delivers (b.endFromBgText p) (some (.raise .invalidFormat)) := by
  obtain ⟨-, -, -, hseg', hspace', -⟩ := b.commitLast_frame
  exact endFromBgText_error hout
    (by rw [fromBgStatus, hspace', hspace, hseg', if_neg (by decide), if_pos hseg])
    (by decide) (by decide)

/-- `InvalidCharacter` for the first bad character. -/
theorem Block.endFromBgText_of_bad {c : Byte} (hout : b.outLen = 0#6) (hspace : b.fmtSpace = false)
    (hseg : ¬ b.fmtSeg < 3#3) (hbad : b.decBad = true) (hbadc : b.decBadc = c) :
    Option.Rel Block.Delivers (b.endFromBgText p) (some (.raiseChar c)) := by
  obtain ⟨-, hlen, -, hseg', hspace', hbad', hbadc'⟩ := b.commitLast_frame
  have hs : fromBgStatus p b.commitLast = some .invalidCharacter := by
    rw [fromBgStatus, hspace', hspace, hseg', if_neg (by decide), if_neg hseg,
      if_pos (hbad'.trans hbad)]
  rw [endFromBgText_of_error hs (by decide), ← hbadc, ← hbadc']
  exact .some (delivers_raiseChar (hlen.trans hout))

/-- An accepted `FROMBG` delivers its UUID value and its text (42_group_formatter.md R178, R179). -/
theorem Block.delivers_uuid (hop : b.opR = opFrombg) :
    ((b.setText (uuidText b.fmtUuid)).answer .ok).Delivers
      { Answer.okText (uuidText b.fmtUuid) with uuid := some b.fmtUuid } := by
  have hdec : b.opR ≠ opDec32 := by rw [hop]; decide
  refine delivers_answer (by simp) ?_ rfl rfl ?_ ?_ ?_
  · exact resultText_setText (by simp)
  · simp [hdec, Answer.okText, Answer.raise]
  · simp [hdec, Answer.okText, Answer.raise]
  · simp [hop]

/-- The range check and the reassembly (42_group_formatter.md R172, R179, R184). -/
theorem Block.endFromBgText_of_committed {s0 s1 s2 s3 : Text} {a0 a1 a2 a3 : BitVec 64}
    (hop : b.opR = opFrombg) (hout : b.outLen = 0#6) (hspace : b.fmtSpace = false)
    (hseg : ¬ b.fmtSeg < 3#3) (hbad : b.decBad = false)
    (h : b.commitLast.Committed [s0, s1, s2, s3] [a0, a1, a2, a3]) :
    Option.Rel Block.Delivers (b.endFromBgText p)
      (reassemble p [s0, s1, s2, s3] a0 a1 a2 a3) := by
  obtain ⟨hop', -, -, hseg', hspace', hbad', -⟩ := b.commitLast_frame
  have hwide : b.commitLast.fmtWide = (isWide a0 || isWide a1 || isWide a2 || isWide a3) := by
    simp [h.wide, Bool.or_assoc]
  have hs : fromBgStatus p b.commitLast = rangeStatus p
      (isWide a0 || isWide a1 || isWide a2 || isWide a3)
      ([s0, s1, s2, s3].any fun s => decide (7 < s.length)) := by
    rw [fromBgStatus, hspace', hspace, hseg', hbad', hbad, if_neg (by decide), if_neg hseg,
      if_neg (by decide), hwide, h.long]
  simp only [reassemble, ← hs, ← h.uuid]
  cases hstatus : fromBgStatus p b.commitLast with
  | none => rw [endFromBgText_of_none hstatus]; exact .none
  | some e =>
    obtain rfl | rfl := rangeStatus_cases (hs.symm.trans hstatus)
    · rw [endFromBgText_of_ok hstatus]
      exact .some (delivers_uuid (hop'.trans hop))
    · exact endFromBgText_error hout hstatus (by decide) (by decide)

end

/-- A `FROMBG` text that is read from the start answers as `FROMBG` does: the four segments are
read one after the other, each to its accumulator or to its bad character. -/
theorem Block.endFromBgText_delivers {b : Block} (p : RangePolicy) (t : Text)
    (hop : b.opR = opFrombg) (hout : b.outLen = 0#6) (hspace : b.fmtSpace = false)
    (h : b.InSegment [] [] [] 0#64) :
    Option.Rel Block.Delivers ((b.readFromBg t).endFromBgText p) (fromBgAnswer p t) := by
  have hseg : b.fmtSeg.toNat = 0 := h.seg
  obtain ⟨hout', hop', hspace', hseg'⟩ := b.readFromBg_flags t (by omega)
  rw [hout] at hout'
  rw [hop] at hop'
  have hlen := segments_length t
  rw [hspace, Bool.false_or] at hspace'
  by_cases hsp : spaceChar ∈ t
  · rw [fromBgAnswer, if_pos hsp]
    exact endFromBgText_of_space hout' (by simp [hspace', hsp])
  have hclean : (b.readFromBg t).fmtSpace = false := by simp [hspace', hsp]
  rw [fromBgAnswer, if_neg hsp]
  split
  case h_2 hshort =>
    refine endFromBgText_of_short hout' hclean ?_
    have hlt : (segments t).length < 4 := by
      match hs : segments t with
      | [] | [_] | [_, _] | [_, _, _] => simp
      | s0 :: s1 :: s2 :: s3 :: rest => exact (hshort s0 s1 s2 s3 rest hs).elim
    bv_omega
  case h_1 s0 s1 s2 s3 rest hs =>
    rw [hs] at hlen
    simp only [List.length_cons] at hlen
    have hge : ¬ (b.readFromBg t).fmtSeg < 3#3 := by bv_omega
    have hfail : ∀ c, (b.readFromBg t).decBad = true ∧ (b.readFromBg t).decBadc = c →
        Option.Rel Block.Delivers ((b.readFromBg t).endFromBgText p) (some (.raiseChar c)) :=
      fun c hc => endFromBgText_of_bad hout' hclean hge hc.1 hc.2
    obtain ⟨⟨n0, n1, n2, n3⟩, tail, htail, rfl⟩ := segments_eq_four hs
    simp only [List.mem_append, List.mem_cons, not_or] at hsp
    obtain ⟨c0, -, c1, -, c2, -, c3, ctail⟩ := hsp
    cases hd0 : dec s0 with
    | bad c => exact hfail c (h.invalid (by simp) n0 c0 hd0 _)
    | acc a0 =>
    obtain ⟨b1, h1, hread1⟩ := h.next (by simp) n0 c0 hd0 _
    cases hd1 : dec s1 with
    | bad c => exact hfail c (by rw [hread1]; exact h1.invalid (by simp) n1 c1 hd1 _)
    | acc a1 =>
    obtain ⟨b2, h2, hread2⟩ := h1.next (by simp) n1 c1 hd1 _
    cases hd2 : dec s2 with
    | bad c => exact hfail c (by rw [hread1, hread2]; exact h2.invalid (by simp) n2 c2 hd2 _)
    | acc a2 =>
    obtain ⟨b3, h3, hread3⟩ := h2.next (by simp) n2 c2 hd2 _
    cases hd3 : dec s3 with
    | bad c =>
      exact hfail c (by rw [hread1, hread2, hread3]; exact h3.invalid (by simp) n3 c3 hd3 _)
    | acc a3 =>
    obtain ⟨hbad, hcommitted⟩ := (h3.read (by simp) n3 c3 hd3).last (by simp) ctail htail
    rw [← readFromBg_append, ← hread3, ← hread2, ← hread1] at hbad hcommitted
    exact endFromBgText_of_committed hop' hout' hclean hge hbad hcommitted

/-! ## `FROMBG` -/

theorem Block.reads_fromBgChar (p : RangePolicy) :
    Block.Reads p .fromBgText fun b c => fromBgChar c b := by
  intro b c hst
  obtain ⟨hst', -⟩ := fromBgChar_flags c b
  exact ⟨hst'.trans hst, by simp [afterBeat_of_fromBgText hst]⟩

theorem leads_frombg {x : Scene} {t : Text} {e : Byte} {beats : List BeatWord} {a : Answer}
    (hst : x.blk.st = .fromBgText) (hop : x.blk.opR = opFrombg) (hout : x.blk.outLen = 0#6)
    (hspace : x.blk.fmtSpace = false) (h : x.blk.InSegment [] [] [] 0#64)
    (hbeats : x.beats = textBeats e t ++ beats) (ha : fromBgAnswer x.policy t = some a) :
    ∃ b, b.Delivers a ∧ Leads x { x with blk := b, beats := beats } := by
  have hrel := Block.endFromBgText_delivers x.policy t hop hout hspace h
  rw [ha] at hrel
  cases hb : (x.blk.readFromBg t).endFromBgText x.policy with
  | none => rw [hb] at hrel; cases hrel
  | some b =>
    rw [hb] at hrel
    cases hrel with
    | some hdelivers =>
      refine ⟨b, hdelivers,
        leads_text (.inr hst) (hst ▸ Block.reads_fromBgChar x.policy) hbeats fun hend => ?_⟩
      rw [afterBeat_of_fromBgText (hend.trans hst), Laws.beatEot_beatWord, if_pos rfl]
      exact hb

end Sys2Proof.Machine
end

section
/-! One command and a whole program, from `IDLE` back to `IDLE` (70_reset_and_hazards.md R252, R260,
R262). -/

namespace Sys2Proof.Machine

open Sys2Proof.Claims

/-! ## One command -/

/-! Accepting each kind of command (70_reset_and_hazards.md R245), and its answer. -/

section
variable {w : CmdWord} {b : Block} {p : RangePolicy} {t : Text}

theorem accepted_of_enc32 (hop : cmdOp w = opEnc32) (hnull : cmdNull w = 0#1) :
    accepted w b = { (b.beginCommand opEnc32).loadEncoder ((cmdData w).extractLsb' 0 32) with
      st := .encIter } := by
  simp [accepted, hop, hnull]

theorem accepted_of_tobg (hop : cmdOp w = opTobg) (hnull : cmdNull w = 0#1) :
    accepted w b = { (b.beginCommand opTobg).loadEncoder (group (cmdData w) 0) with
      fmtUuid := cmdData w, st := .encIter } := by
  simp +decide [accepted, hop, hnull]

theorem accepted_of_dec32 (hop : cmdOp w = opDec32) (hnull : cmdNull w = 0#1) :
    accepted w b = { b.beginCommand opDec32 with st := .decText } := by
  simp +decide [accepted, hop, hnull]

theorem accepted_of_frombg (hop : cmdOp w = opFrombg) (hnull : cmdNull w = 0#1) :
    accepted w b = { b.beginCommand opFrombg with st := .fromBgText } := by
  simp +decide [accepted, hop, hnull]

theorem accepted_of_null (hop : cmdOp w = opDec32 ∨ cmdOp w = opFrombg) (hnull : cmdNull w ≠ 0#1) :
    accepted w b = (b.beginCommand (cmdOp w)).answer .nullInput := by
  simp [accepted, hop, hnull]

theorem accepted_of_illegal (htext : ¬ (cmdOp w = opDec32 ∨ cmdOp w = opFrombg))
    (h : cmdNull w = 0#1 → cmdOp w ≠ opEnc32 ∧ cmdOp w ≠ opTobg) :
    accepted w b = (b.beginCommand (cmdOp w)).answer .illegalCommand := by
  obtain ⟨hdec, hfrom⟩ := not_or.mp htext
  by_cases hnull : cmdNull w = 0#1
  · simp [accepted, hdec, hfrom, h hnull]
  · simp [accepted, hdec, hfrom, hnull]

theorem answerTo_of_enc32 (hop : cmdOp w = opEnc32) (hnull : cmdNull w = 0#1) :
    answerTo p w t = some (.okText (enc32 ((cmdData w).extractLsb' 0 32))) := by
  simp [answerTo, hop, hnull]

theorem answerTo_of_tobg (hop : cmdOp w = opTobg) (hnull : cmdNull w = 0#1) :
    answerTo p w t = some (.okText (tobgText (cmdData w))) := by
  simp +decide [answerTo, hop, hnull]

theorem answerTo_of_dec32 (hop : cmdOp w = opDec32) (hnull : cmdNull w = 0#1) :
    answerTo p w t = some (decAnswer t) := by
  simp +decide [answerTo, hop, hnull]

theorem answerTo_of_frombg (hop : cmdOp w = opFrombg) (hnull : cmdNull w = 0#1) :
    answerTo p w t = fromBgAnswer p t := by
  simp +decide [answerTo, hop, hnull]

theorem answerTo_of_null (hop : cmdOp w = opDec32 ∨ cmdOp w = opFrombg) (hnull : cmdNull w ≠ 0#1) :
    answerTo p w t = some (.raise .nullInput) := by
  simp [answerTo, hop, hnull]

theorem answerTo_of_illegal (htext : ¬ (cmdOp w = opDec32 ∨ cmdOp w = opFrombg))
    (h : cmdNull w = 0#1 → cmdOp w ≠ opEnc32 ∧ cmdOp w ≠ opTobg) :
    answerTo p w t = some (.raise .illegalCommand) := by
  obtain ⟨hdec, hfrom⟩ := not_or.mp htext
  by_cases hnull : cmdNull w = 0#1
  · simp [answerTo, hdec, hfrom, h hnull]
  · simp [answerTo, hdec, hfrom, hnull]

theorem accepted_startsValue (hop : cmdOp w = opEnc32) (hnull : cmdNull w = 0#1) :
    (accepted w b).StartsValue ((cmdData w).extractLsb' 0 32) [] ∧
      (accepted w b).opR = opEnc32 := by
  obtain ⟨henc, -⟩ := accepted_inv w b
  rw [accepted_of_enc32 hop hnull] at henc ⊢
  exact ⟨⟨rfl, henc rfl, rfl, rfl, Block.resultText_of_empty rfl⟩, rfl⟩

theorem accepted_atGroup (hop : cmdOp w = opTobg) (hnull : cmdNull w = 0#1) :
    (accepted w b).AtGroup (cmdData w) 0 [] := by
  obtain ⟨henc, -⟩ := accepted_inv w b
  rw [accepted_of_tobg hop hnull] at henc ⊢
  exact ⟨⟨rfl, henc rfl, rfl, rfl, Block.resultText_of_empty rfl⟩, rfl, rfl, rfl⟩

/-- A reserved or null command is answered at its accepting step (30_encoding.md R72, R78). -/
theorem accepted_delivers_illegal {a : Answer}
    (htext : ¬ (cmdOp w = opDec32 ∨ cmdOp w = opFrombg))
    (h : cmdNull w = 0#1 → cmdOp w ≠ opEnc32 ∧ cmdOp w ≠ opTobg)
    (ha : answerTo p w t = some a) : (accepted w b).Delivers a := by
  rw [answerTo_of_illegal htext h] at ha
  cases ha
  rw [accepted_of_illegal htext h]
  exact Block.delivers_raise rfl (by decide) (by decide)

theorem accepted_delivers_nullInput {a : Answer} (hop : cmdOp w = opDec32 ∨ cmdOp w = opFrombg)
    (hnull : cmdNull w ≠ 0#1) (ha : answerTo p w t = some a) : (accepted w b).Delivers a := by
  rw [answerTo_of_null hop hnull] at ha
  cases ha
  rw [accepted_of_null hop hnull]
  exact Block.delivers_raise rfl (by decide) (by decide)

end

/-- A command that takes no text is worked on until it is answered as its operation says. -/
theorem leads_answer_of_noText {x : Scene} {w : CmdWord} {b : Block} {t : Text} {a : Answer}
    (hblk : x.blk = accepted w b) (htake : takesText w = false)
    (howned : HasOwner x.cmds x.beats) (ha : answerTo x.policy w t = some a) :
    ∃ b', b'.Delivers a ∧ Leads x { x with blk := b' } := by
  have hdone : (accepted w b).Delivers a → ∃ b', b'.Delivers a ∧ Leads x { x with blk := b' } :=
    fun h => ⟨x.blk, hblk ▸ h, .refl x⟩
  by_cases hnull : cmdNull w = 0#1
  · have htext : ¬ (cmdOp w = opDec32 ∨ cmdOp w = opFrombg) := by
      simpa [takesText, hnull] using htake
    by_cases henc : cmdOp w = opEnc32
    · rw [answerTo_of_enc32 henc hnull] at ha
      cases ha
      obtain ⟨hstart, hop⟩ := accepted_startsValue (b := b) henc hnull
      exact leads_enc32 (hblk ▸ hstart) (hblk ▸ hop) howned
    by_cases htobg : cmdOp w = opTobg
    · rw [answerTo_of_tobg htobg hnull] at ha
      cases ha
      exact leads_tobg (hblk ▸ accepted_atGroup htobg hnull) howned
    exact hdone (accepted_delivers_illegal htext (fun _ => ⟨henc, htobg⟩) ha)
  · by_cases htext : cmdOp w = opDec32 ∨ cmdOp w = opFrombg
    · exact hdone (accepted_delivers_nullInput htext hnull ha)
    · exact hdone (accepted_delivers_illegal htext (fun h => absurd h hnull) ha)

/-- A command that takes a text takes its own beats and is answered as its operation says. -/
theorem leads_answer_of_text {x : Scene} {w : CmdWord} {b : Block} {t : Text} {e : Byte}
    {beats : List BeatWord} {a : Answer} (hblk : x.blk = accepted w b)
    (htake : takesText w = true) (hbeats : x.beats = textBeats e t ++ beats)
    (ha : answerTo x.policy w t = some a) :
    ∃ b', b'.Delivers a ∧ Leads x { x with blk := b', beats := beats } := by
  obtain ⟨hnull, hop⟩ : cmdNull w = 0#1 ∧ (cmdOp w = opDec32 ∨ cmdOp w = opFrombg) := by
    simpa [takesText] using htake
  obtain hop | hop := hop
  · rw [answerTo_of_dec32 hop hnull] at ha
    cases ha
    rw [accepted_of_dec32 hop hnull] at hblk
    exact leads_dec32 (by rw [hblk]) (by rw [hblk]; rfl) (by rw [hblk]; rfl) (by rw [hblk]; rfl)
      (by rw [hblk]; rfl) hbeats
  · rw [answerTo_of_frombg hop hnull] at ha
    rw [accepted_of_frombg hop hnull] at hblk
    refine leads_frombg (by rw [hblk]) (by rw [hblk]; rfl) (by rw [hblk]; rfl)
      (by rw [hblk]; rfl) ?_ hbeats ha
    rw [hblk]
    exact ⟨⟨rfl, rfl, rfl, fun _ h => nomatch h⟩, rfl, rfl, rfl, rfl⟩

/-- The text of a command is owned by that command, and the later beats by a later one. -/
theorem hasOwner_cons {w : CmdWord} {cmds : List CmdWord} {beats own : List BeatWord}
    (h : HasOwner cmds beats) :
    HasOwner (w :: cmds) ((if takesText w then own else []) ++ beats) := by
  by_cases hw : takesText w = true
  · exact .inr ⟨w, List.mem_cons_self, hw⟩
  · rw [if_neg hw, List.nil_append]
    obtain h | ⟨v, hv, hv'⟩ := h
    · exact .inl h
    · exact .inr ⟨v, List.mem_cons_of_mem _ hv, hv'⟩

/-- One command at any pace of the host: from `IDLE` back to `IDLE`, with the response, the text and
the EOT beat of its operation delivered (70_reset_and_hazards.md R252, R260). -/
theorem leads_command {x : Scene} {w : CmdWord} {t : Text} {e : Byte} {cmds : List CmdWord}
    {beats : List BeatWord} {a : Answer} (hst : x.blk.st = .idle) (hcmds : x.cmds = w :: cmds)
    (hbeats : x.beats = (if takesText w then textBeats e t else []) ++ beats)
    (howned : HasOwner cmds beats) (ha : answerTo x.policy w t = some a) :
    ∃ b, b.st = .idle ∧ Leads x { x with
      blk := b
      cmds := cmds
      beats := beats
      responses := x.responses ++ [a.response]
      texts := x.texts ++ a.beats } := by
  have hx : x.Owned := .inr (by rw [hcmds, hbeats]; exact hasOwner_cons howned)
  have haccept := leads_accept hst hcmds hx
  obtain ⟨b', hdelivers, hwork⟩ : ∃ b' : Block, b'.Delivers a ∧
      Leads { x with blk := accepted w x.blk, cmds := cmds }
        { x with blk := b', cmds := cmds, beats := beats } := by
    cases htake : takesText w with
    | true =>
      rw [htake, if_pos rfl] at hbeats
      exact leads_answer_of_text rfl htake hbeats ha
    | false =>
      rw [htake, if_neg (by decide), List.nil_append] at hbeats
      subst hbeats
      exact leads_answer_of_noText rfl htake howned ha
  obtain ⟨b, hb, hdeliver⟩ :=
    leads_deliver (x := { x with blk := b', cmds := cmds, beats := beats }) hdelivers howned
  exact ⟨b, hb, haccept.trans (hwork.trans hdeliver)⟩

/-! ## Every command has an answer, but under `REFUSE` (42_group_formatter.md R184) -/

theorem rangeStatus_isSome {p : RangePolicy} (hp : p ≠ .refuse) (wide long : Bool) :
    (rangeStatus p wide long).isSome = true := by
  cases p with
  | mag32 => cases wide <;> rfl
  | len7 => cases long <;> rfl
  | refuse => exact absurd rfl hp

theorem reassemble_isSome {p : RangePolicy} (hp : p ≠ .refuse) (segs : List Text)
    (a0 a1 a2 a3 : BitVec 64) : (reassemble p segs a0 a1 a2 a3).isSome = true := by
  rw [reassemble, Option.isSome_map]
  exact rangeStatus_isSome hp _ _

theorem fromBgAnswer_isSome {p : RangePolicy} (hp : p ≠ .refuse) (t : Text) :
    (fromBgAnswer p t).isSome = true := by
  unfold fromBgAnswer
  split
  · rfl
  split
  · iterate 4
      split
      · rfl
    exact reassemble_isSome hp _ _ _ _ _
  · rfl

theorem answerTo_isSome {p : RangePolicy} (hp : p ≠ .refuse) (w : CmdWord) (t : Text) :
    (answerTo p w t).isSome = true := by
  unfold answerTo
  split_ifs
  any_goals rfl
  exact fromBgAnswer_isSome hp t

/-! ## Programs -/

/-- A program brings no text beat that none of its commands owns. -/
theorem hasOwner_program (program : List Command) :
    HasOwner (program.map Command.word) (program.flatMap Command.beats) := by
  induction program with
  | nil => exact .inl rfl
  | cons c cs ih => exact hasOwner_cons ih

/-- From `IDLE`, a program is answered command by command (20_memory.md R61;
70_reset_and_hazards.md R260, R262). -/
theorem leads_program {x : Scene} (program : List Command) (hst : x.blk.st = .idle)
    (hp : x.policy ≠ .refuse) (hcmds : x.cmds = program.map Command.word)
    (hbeats : x.beats = program.flatMap Command.beats) :
    ∃ answers : List Answer,
      program.map (fun c => answerTo x.policy c.word c.text) = answers.map some ∧
      ∃ b, b.st = .idle ∧ Leads x { x with
        blk := b
        cmds := []
        beats := []
        responses := x.responses ++ answers.map Answer.response
        texts := x.texts ++ answers.flatMap Answer.beats } := by
  induction program generalizing x with
  | nil =>
    refine ⟨[], rfl, x.blk, hst, ?_⟩
    have hend : x = { x with
        cmds := []
        beats := []
        responses := x.responses ++ []
        texts := x.texts ++ [] } := by
      rw [List.append_nil, List.append_nil, ← show x.cmds = [] from hcmds,
        ← show x.beats = [] from hbeats]
    exact hend ▸ .refl x
  | cons c cs ih =>
    obtain ⟨a, ha⟩ := Option.isSome_iff_exists.mp (answerTo_isSome hp c.word c.text)
    obtain ⟨b, hb, hcommand⟩ := leads_command hst hcmds hbeats (hasOwner_program cs) ha
    obtain ⟨answers, hanswers, b', hb', hrest⟩ := ih
      (x := { x with
        blk := b
        cmds := cs.map Command.word
        beats := cs.flatMap Command.beats
        responses := x.responses ++ [a.response]
        texts := x.texts ++ a.beats }) hb hp rfl rfl
    refine ⟨a :: answers, by rw [List.map_cons, List.map_cons, ha, hanswers], b', hb', ?_⟩
    simp only [List.append_assoc, List.singleton_append] at hrest
    exact hcommand.trans hrest

/-- Settles O59: a loaded program is a scene in `IDLE` whose words are the program's. -/
theorem wholeProgramsAreAnswered : Obligations.WholeProgramsAreAnswered := by
  intro s program hst hn hp
  obtain ⟨answers, hanswers, b, hb, hlead⟩ :=
    leads_program (x := (s.load program).scene) program hst hp rfl rfl
  obtain ⟨k, r, hrun, hr, -⟩ := hlead (s.load program) rfl hn
  refine ⟨answers, k, r, hanswers, hrun, ?_, congrArg Scene.cmds hr, congrArg Scene.beats hr,
    congrArg Scene.responses hr, congrArg Scene.texts hr⟩
  exact (congrArg (Block.st ∘ Scene.blk) hr).trans hb

end Sys2Proof.Machine
end

section
/-! The encoding of commands and beats read both ways (30_encoding.md R70 to R73, R77, R78): the
fields of a word make the word, and every row's word is the one that decodes to it. -/

namespace Sys2Proof.Machine

open Sys2Proof.Claims

/-! ## The fields of a word make the word -/

theorem cmdWord_fields (w : CmdWord) : cmdWord (cmdOp w) (cmdNull w) (cmdData w) = w := by
  apply BitVec.eq_of_getLsbD_eq
  intro k hk
  simp only [cmdWord, cmdOp, cmdNull, cmdData, BitVec.getLsbD_append, BitVec.getLsbD_extractLsb']
  grind

theorem beatWord_fields (w : BeatWord) : beatWord (beatEot w) (beatChar w) = w := by
  apply BitVec.eq_of_getLsbD_eq
  intro k hk
  simp only [beatWord, beatEot, beatChar, BitVec.getLsbD_append, BitVec.getLsbD_extractLsb']
  grind

/-- The two halves make the `ENC32` data field. -/
theorem append_data_halves (data : BitVec 128) :
    data.extractLsb' 32 96 ++ data.extractLsb' 0 32 = data := by
  apply BitVec.eq_of_getLsbD_eq
  intro k hk
  simp only [BitVec.getLsbD_append, BitVec.getLsbD_extractLsb']
  grind

theorem eq_one_of_ne_zero {bit : BitVec 1} (h : bit ≠ 0#1) : bit = 1#1 :=
  (Laws.null_cases bit).resolve_left h

/-! ## The command rows (30_encoding.md R71, R78) -/

theorem wellFormed_decodeCmd (w : CmdWord) : (decodeCmd w).wellFormed = true := by
  simp only [decodeCmd]
  split_ifs <;> rfl

/-- Each branch of the decoder fixes the header that its row is written with. -/
theorem encode_decodeCmd (w : CmdWord) : encode (decodeCmd w) = .cmd w := by
  rw [← congrArg ChannelWord.cmd (cmdWord_fields w)]
  simp only [decodeCmd]
  split_ifs with h0 h1 hn h2 hn h3 hn h4 hn h5 h6
  · rw [h0]; rfl
  · rw [h1, hn, encode, append_data_halves]
  · rw [h1, eq_one_of_ne_zero hn]; rfl
  · rw [h2, hn]; rfl
  · rw [h2, eq_one_of_ne_zero hn]; rfl
  · rw [h3, hn]; rfl
  · rw [h3, eq_one_of_ne_zero hn]; rfl
  · rw [h4, hn]; rfl
  · rw [h4, eq_one_of_ne_zero hn]; rfl
  · rw [h5]; rfl
  · rw [h6]; rfl
  · rw [show cmdOp w = 7#3 by bv_omega]; rfl

/-! ## The character rows (30_encoding.md R77) -/

/-- The symbol rows are written with their codes. -/
theorem encode_symbolRow : ∀ r ∈ symbolRows,
    r.2.wellFormed = true ∧ encode r.2 = .beat (beatWord 0#1 r.1) := by decide

theorem symbolRow_ne_other : ∀ r ∈ symbolRows, ∀ c, r.2 ≠ .other c := by simp [symbolRows]

theorem symbolRows_codes : symbolRows.map Prod.fst = alphaTable.toList := rfl

theorem charClass_eq_other_iff (c : Byte) :
    charClass c = .other ↔ c ≠ hyphenChar ∧ c ≠ spaceChar ∧ rev c = none := by
  unfold charClass
  split_ifs with hh hs hr
  · simp [hh]
  · simp [hs]
  · simp [Option.isSome_iff_ne_none.mp hr]
  · simp [hh, hs, Option.not_isSome_iff_eq_none.mp hr]

/-- `OTHER` is the row of lowest priority: a code without a symbol row has no `REV` entry. -/
theorem rev_eq_none_iff_find?_symbolRows (c : Byte) :
    rev c = none ↔ symbolRows.find? (fun r => r.1 == c) = none := by
  simp [rev, ← symbolRows_codes, List.find?_eq_none]

/-- All that the character decoder can do (30_encoding.md R77). -/
theorem decodeChar_cases (c : Byte) :
    (c = hyphenChar ∧ decodeChar c = .hyphen) ∨ (c = spaceChar ∧ decodeChar c = .space) ∨
    (∃ r ∈ symbolRows, r.1 = c ∧ decodeChar c = r.2) ∨
    (charClass c = .other ∧ decodeChar c = .other c) := by
  unfold decodeChar
  split_ifs with hh hs
  · exact .inl ⟨hh, rfl⟩
  · exact .inr (.inl ⟨hs, rfl⟩)
  split
  · rename_i r hr
    have hc : r.1 = c := by simpa using List.find?_some hr
    exact .inr (.inr (.inl ⟨r, List.mem_of_find?_eq_some hr, hc, rfl⟩))
  · rename_i hnone
    exact .inr (.inr (.inr ⟨(charClass_eq_other_iff c).mpr
      ⟨hh, hs, (rev_eq_none_iff_find?_symbolRows c).mpr hnone⟩, rfl⟩))

theorem decodeChar_eq_other_iff (c : Byte) : decodeChar c = .other c ↔ charClass c = .other := by
  refine ⟨fun h => ?_, Laws.decodeChar_other c⟩
  obtain ⟨-, e⟩ | ⟨-, e⟩ | ⟨r, hr, -, e⟩ | ⟨hc, -⟩ := decodeChar_cases c
  · simp [e] at h
  · simp [e] at h
  · exact absurd (e.symm.trans h) (symbolRow_ne_other r hr c)
  · exact hc

theorem wellFormed_decodeChar (c : Byte) : (decodeChar c).wellFormed = true := by
  obtain ⟨-, e⟩ | ⟨-, e⟩ | ⟨r, hr, -, e⟩ | ⟨hc, e⟩ := decodeChar_cases c <;> rw [e]
  · rfl
  · rfl
  · exact (encode_symbolRow r hr).1
  · simp [Instr.wellFormed, hc]

theorem encode_decodeChar (c : Byte) : encode (decodeChar c) = .beat (beatWord 0#1 c) := by
  obtain ⟨rfl, e⟩ | ⟨rfl, e⟩ | ⟨r, hr, rfl, e⟩ | ⟨-, e⟩ := decodeChar_cases c <;> rw [e]
  · rfl
  · rfl
  · exact (encode_symbolRow r hr).2
  · rfl

/-! ## The text beats (30_encoding.md R73) -/

theorem wellFormed_decodeBeat (w : BeatWord) : (decodeBeat w).wellFormed = true := by
  unfold decodeBeat
  split
  · rfl
  · exact wellFormed_decodeChar _

theorem encode_decodeBeat (w : BeatWord) : encode (decodeBeat w) = .beat w := by
  rw [← congrArg ChannelWord.beat (beatWord_fields w), decodeBeat]
  obtain he | he := Laws.null_cases (beatEot w)
  · rw [he, if_neg (by decide), encode_decodeChar]
  · rw [he, if_pos rfl]; rfl

/-! ## The round trips -/

/-- Settles O2: one case per row, by the law of that row. -/
theorem decodeReadsBackEncode : Obligations.DecodeReadsBackEncode
  | .reservedOp0 null data => Laws.RoundTrip.reservedOp0 null data
  | .enc32 ignored v => Laws.RoundTrip.enc32 ignored v
  | .illegalEnc32Null data => Laws.RoundTrip.illegalEnc32Null data
  | .dec32 data => Laws.RoundTrip.dec32 data
  | .dec32Null data => Laws.RoundTrip.dec32Null data
  | .tobg u => Laws.RoundTrip.tobg u
  | .illegalTobgNull data => Laws.RoundTrip.illegalTobgNull data
  | .frombg data => Laws.RoundTrip.frombg data
  | .frombgNull data => Laws.RoundTrip.frombgNull data
  | .reservedOp5 null data => Laws.RoundTrip.reservedOp5 null data
  | .reservedOp6 null data => Laws.RoundTrip.reservedOp6 null data
  | .reservedOp7 null data => Laws.RoundTrip.reservedOp7 null data
  | .eot c => Laws.RoundTrip.eot c
  | .sym0 => Laws.RoundTrip.sym0
  | .sym1 => Laws.RoundTrip.sym1
  | .sym2 => Laws.RoundTrip.sym2
  | .sym3 => Laws.RoundTrip.sym3
  | .sym4 => Laws.RoundTrip.sym4
  | .sym5 => Laws.RoundTrip.sym5
  | .sym6 => Laws.RoundTrip.sym6
  | .sym7 => Laws.RoundTrip.sym7
  | .sym8 => Laws.RoundTrip.sym8
  | .sym9 => Laws.RoundTrip.sym9
  | .symA => Laws.RoundTrip.symA
  | .symB => Laws.RoundTrip.symB
  | .symC => Laws.RoundTrip.symC
  | .symD => Laws.RoundTrip.symD
  | .symE => Laws.RoundTrip.symE
  | .symF => Laws.RoundTrip.symF
  | .symG => Laws.RoundTrip.symG
  | .symH => Laws.RoundTrip.symH
  | .symJ => Laws.RoundTrip.symJ
  | .symK => Laws.RoundTrip.symK
  | .symM => Laws.RoundTrip.symM
  | .symN => Laws.RoundTrip.symN
  | .symP => Laws.RoundTrip.symP
  | .symQ => Laws.RoundTrip.symQ
  | .symR => Laws.RoundTrip.symR
  | .symS => Laws.RoundTrip.symS
  | .symT => Laws.RoundTrip.symT
  | .symV => Laws.RoundTrip.symV
  | .symW => Laws.RoundTrip.symW
  | .symX => Laws.RoundTrip.symX
  | .symY => Laws.RoundTrip.symY
  | .symZ => Laws.RoundTrip.symZ
  | .hyphen => Laws.RoundTrip.hyphen
  | .space => Laws.RoundTrip.space
  | .other c => Laws.RoundTrip.other c

/-- Settles O3: no bit of a word is dropped, by the branches of the two decoders. -/
theorem encodeReadsBackDecode : Obligations.EncodeReadsBackDecode
  | .cmd w => ⟨wellFormed_decodeCmd w, encode_decodeCmd w⟩
  | .beat w => ⟨wellFormed_decodeBeat w, encode_decodeBeat w⟩

/-- Settles O1: the decoder runs on the words written out. -/
theorem wordsOfTheSpecDecode : Obligations.WordsOfTheSpecDecode := by
  unfold Obligations.WordsOfTheSpecDecode
  decide

end Sys2Proof.Machine
end

section
/-! The four classes of the 256 codes (30_encoding.md R77). -/

namespace Sys2Proof.Machine

open Sys2Proof.Claims

/-- Every code of a list is counted in exactly one class. -/
theorem charClass_countP_add (codes : List Byte) :
    codes.countP (charClass · = .sym) + codes.countP (charClass · = .hyphen) +
      codes.countP (charClass · = .space) + codes.countP (charClass · = .other) = codes.length := by
  induction codes with
  | nil => rfl
  | cons c cs ih =>
    simp only [List.countP_cons, List.length_cons]
    cases charClass c <;> simp <;> omega

theorem charClass_eq_hyphen_iff (c : Byte) : charClass c = .hyphen ↔ c = hyphenChar := by
  unfold charClass
  split_ifs with hh <;> simp [hh]

theorem charClass_eq_space_iff (c : Byte) : charClass c = .space ↔ c = spaceChar := by
  unfold charClass
  split_ifs with hh hs
  · simp +decide [hh]
  all_goals simp [hs]

/-- All 256 codes, each once. -/
def allCodes : List Byte := (List.range 256).map (BitVec.ofNat 8)

theorem countP_allCodes (c : Byte) : allCodes.countP (· = c) = 1 := by
  rw [List.countP_congr (q := (· == c)) (by simp), ← List.count]
  refine List.count_eq_one_of_mem (List.nodup_range.map_on fun m hm n hn h => ?_) ?_
  · have hm := List.mem_range.mp hm
    have hn := List.mem_range.mp hn
    bv_omega
  · exact List.mem_map.mpr ⟨c.toNat, List.mem_range.mpr c.isLt, BitVec.ofNat_toNat ..⟩

/-- Settles O6: one code is the hyphen, one the space and 32 are symbols, which leaves 222. -/
theorem everyCodeHasOneClass : Obligations.EveryCodeHasOneClass := by
  have hhyphen : allCodes.countP (charClass · = .hyphen) = 1 := by
    simp only [charClass_eq_hyphen_iff, countP_allCodes]
  have hspace : allCodes.countP (charClass · = .space) = 1 := by
    simp only [charClass_eq_space_iff, countP_allCodes]
  have hsym : allCodes.countP (charClass · = .sym) = 32 := by
    simp only [charClass_eq_sym_iff, Bool.decide_eq_true, allCodes, List.countP_map]
    exact rev_countP_isSome
  have hother : allCodes.countP (charClass · = .other) = 222 := by
    have htotal := charClass_countP_add allCodes
    rw [hsym, hhyphen, hspace, show allCodes.length = 256 by simp [allCodes]] at htotal
    omega
  rw [allCodes, List.countP_map] at hsym hother
  refine ⟨hsym, hother, charClass_eq_hyphen_iff, charClass_eq_space_iff, fun c => ?_⟩
  rw [decode, Laws.decodeBeat_char]
  exact (decodeChar_eq_other_iff c).symm

end Sys2Proof.Machine
end

section
/-! The reserved encodings in `IDLE` (30_encoding.md R78; 60_exceptions.md R207). -/

namespace Sys2Proof.Machine

open Sys2Proof.Claims

theorem exec_reserved (null : BitVec 1) (data : BitVec 128) (s : State) :
    ∀ r ∈ [(Instr.reservedOp0 null data, 0#3), (.illegalEnc32Null data, 1#3),
        (.illegalTobgNull data, 3#3), (.reservedOp5 null data, 5#3),
        (.reservedOp6 null data, 6#3), (.reservedOp7 null data, 7#3)],
      exec r.1 s = whenIdle (fun b => (b.beginCommand r.2).answer .illegalCommand) s := by
  simp only [List.forall_mem_cons]
  exact ⟨rfl, rfl, rfl, rfl, rfl, rfl, nofun⟩

theorem Block.answer_bareResponse {b : Block} {e : Status} (hlen : b.outLen = 0#6) (hok : e ≠ .ok)
    (hchar : e ≠ .invalidCharacter) : (b.answer e).response = bareResponse e.code := by
  simp [answer_response, bareResponse, hlen, hok, hchar]

/-- Settles O11: the accepting step clears the registers of the command and answers it. -/
theorem reservedEncodingsAreIllegalCommands : Obligations.ReservedEncodingsAreIllegalCommands := by
  intro null data s hst r hr
  refine ⟨0, false, ?_, ?_⟩
  · rw [exec_reserved null data s r hr, whenIdle_of_idle hst]; rfl
  · exact Block.answer_bareResponse (b := cleared r.2 0 false s.blk) (e := .illegalCommand) rfl
      (by decide) (by decide)

end Sys2Proof.Machine
end

section
/-! Which fields of an offered response have a value (30_encoding.md R74). -/

namespace Sys2Proof.Machine

open Sys2Proof.Claims

section

variable {b : Block}

/-! ## The optional fields, of any registers -/

theorem Block.rspChar_isSome : b.rspChar.isSome = true ↔ b.rStatus = 3#3 := by
  rw [rspChar, Option.isSome_ite]; rfl

theorem Block.answeredOk_iff {op : BitVec 3} :
    b.answeredOk op = true ↔ b.opR = op ∧ b.rStatus = 0#3 := by
  simp [answeredOk, Status.code]

theorem Block.rspAcc_isSome : b.rspAcc.isSome = true ↔ b.opR = opDec32 ∧ b.rStatus = 0#3 := by
  simp [rspAcc, answeredOk_iff]

theorem Block.rspHexvalid_isSome :
    b.rspHexvalid.isSome = true ↔ b.opR = opDec32 ∧ b.rStatus = 0#3 := by
  simp [rspHexvalid, answeredOk_iff]

theorem Block.rspUuid_isSome : b.rspUuid.isSome = true ↔ b.opR = opFrombg ∧ b.rStatus = 0#3 := by
  simp [rspUuid, answeredOk_iff]

/-! ## The lengths of an answered command -/

theorem Block.answered.of_ok (h : b.answered) (hok : b.rStatus = 0#3) :
    (b.opR = opEnc32 → 1 ≤ b.outLen.toNat ∧ b.outLen.toNat ≤ 7) ∧
    (b.opR = opDec32 → b.rHexvalid = !isWide b.decAcc ∧
      b.outLen.toNat = if b.rHexvalid then 8 else 0) ∧
    (b.opR = opTobg → 7 ≤ b.outLen.toNat ∧ b.outLen.toNat ≤ 31) ∧
    (b.opR = opFrombg → b.outLen.toNat = 36) := by
  obtain ⟨-, ⟨hop, hlen⟩ | ⟨hop, hlen⟩ | ⟨hop, hlen⟩ | ⟨hop, hlen⟩⟩ | ⟨-, herr⟩ := h
  case inr => simp +decide [hok] at herr
  all_goals rw [hop]
  · exact ⟨fun _ => hlen, nofun, nofun, nofun⟩
  · exact ⟨nofun, fun _ => hlen, nofun, nofun⟩
  · exact ⟨nofun, nofun, fun _ => hlen, nofun⟩
  · exact ⟨nofun, nofun, nofun, fun _ => hlen⟩

theorem Block.answered.of_error (h : b.answered) (herr : b.rStatus ≠ 0#3) : b.outLen = 0#6 := by
  obtain ⟨hok, -⟩ | ⟨hlen, -⟩ := h
  · exact absurd hok herr
  · exact BitVec.eq_of_toNat_eq hlen

theorem not_isWide_eq_decide (a : BitVec 64) : (!isWide a) = decide (a.toNat < 2 ^ 32) := by
  rw [Bool.eq_iff_iff]
  simp [← Bool.not_eq_true, isWide_iff]

/-- The value of `DEC32` comes with its hex flag and with 8 hex digits or none. -/
theorem Block.answered.of_rspAcc {a : BitVec 64} (h : b.answered) (ha : b.rspAcc = some a) :
    b.rspHexvalid = some (decide (a.toNat < 2 ^ 32)) ∧
      b.outLen.toNat = if a.toNat < 2 ^ 32 then 8 else 0 := by
  have hanswered : b.answeredOk opDec32 = true := by
    by_contra hno
    rw [rspAcc, if_neg hno] at ha
    cases ha
  rw [rspAcc, if_pos hanswered] at ha
  cases ha
  obtain ⟨hop, hok⟩ := answeredOk_iff.mp hanswered
  obtain ⟨-, hdec, -⟩ := h.of_ok hok
  obtain ⟨hhex, hlen⟩ := hdec hop
  rw [hhex, not_isWide_eq_decide] at hlen
  rw [rspHexvalid, if_pos hanswered, hhex, not_isWide_eq_decide]
  exact ⟨rfl, by simpa using hlen⟩

end

/-- Settles O36: the optional fields follow the status and the operation alone, and the lengths are
those of the invariant. -/
theorem responseFieldsHaveTheirValues : Obligations.ResponseFieldsHaveTheirValues := by
  rintro b ⟨-, -, -, hrsp, -⟩ hst
  have h : b.answered := hrsp hst
  refine ⟨Block.rspChar_isSome, Block.rspAcc_isSome, fun _ => h.of_rspAcc, Block.rspHexvalid_isSome,
    Block.rspUuid_isSome, fun hok => ?_, fun hok => ?_, fun hok => ?_, h.of_error⟩
  all_goals obtain ⟨henc, -, htobg, hfrombg⟩ := h.of_ok hok
  · exact henc
  · exact htobg
  · exact hfrombg

end Sys2Proof.Machine
end

section
/-! The texts that the encoder makes (30_encoding.md R80, R81): the symbols of an encoded value are
its base-32 numeral without leading zeros, and `TOBG` joins four of them with hyphens. -/

namespace Sys2Proof.Machine

open Sys2Proof.Claims

/-! ## Numerals -/

/-- The digits `ds`, most significant first, write `n` in base 32 without leading zeros. -/
structure IsNumeral (n : Nat) (ds : List (BitVec 5)) : Prop where
  ne_nil : ds ≠ []
  value : positional ds = n
  zero_of_head : ds.head? = some 0#5 → ds = [0#5]

theorem positional_snoc (ds : List (BitVec 5)) (d : BitVec 5) :
    positional (ds ++ [d]) = 32 * positional ds + d.toNat := by
  induction ds with
  | nil => simp [positional]
  | cons e es ih =>
    rw [List.cons_append, positional, ih, positional, List.length_append, List.length_singleton]
    ring

theorem IsNumeral.singleton (d : BitVec 5) : IsNumeral d.toNat [d] where
  ne_nil := by simp
  value := by simp [positional]
  zero_of_head h := by rw [Option.some.inj h]

theorem IsNumeral.snoc {n : Nat} {ds : List (BitVec 5)} (h : IsNumeral n ds) (hn : n ≠ 0)
    (d : BitVec 5) : IsNumeral (32 * n + d.toNat) (ds ++ [d]) where
  ne_nil := by simp
  value := by rw [positional_snoc, h.value]
  zero_of_head hd := by
    rw [List.head?_append_of_ne_nil _ h.ne_nil] at hd
    have hv := h.value
    rw [h.zero_of_head hd] at hv
    exact absurd hv.symm hn

/-- The leading digit of a numeral of seven digits, of a 32-bit value. -/
theorem IsNumeral.head_of_seven {n : Nat} {ds : List (BitVec 5)} (h : IsNumeral n ds)
    (hn : n < 2 ^ 32) (hlen : ds.length = 7) :
    ds.head? = some 1#5 ∨ ds.head? = some 2#5 ∨ ds.head? = some 3#5 := by
  obtain ⟨-, hv, hzero⟩ := h
  match ds, hlen with
  | d :: ds, hlen =>
    have hlen : ds.length = 6 := by simpa using hlen
    have hd0 : d ≠ 0#5 := by
      rintro rfl
      rw [(List.cons.inj (hzero rfl)).2] at hlen
      cases hlen
    rw [positional, hlen] at hv
    have hlt : d.toNat < 4 := by omega
    simp only [List.head?_cons, Option.some.injEq]
    bv_omega

/-! ## The encoder -/

/-- A value is its low digit below the rest (40_base32_encoder.md R101). -/
theorem toNat_eq_shift_add_digit (v : BitVec 32) :
    v.toNat = 32 * (v >>> 5).toNat + (v.extractLsb' 0 5).toNat := by
  simp only [BitVec.toNat_ushiftRight, BitVec.extractLsb'_toNat, Nat.shiftRight_eq_div_pow]
  omega

theorem isNumeral_of_last {v : BitVec 32} (hlast : v >>> 5 = 0#32) :
    IsNumeral v.toNat [v.extractLsb' 0 5] := by
  have hv : v.toNat = (v.extractLsb' 0 5).toNat := by
    simpa [hlast] using toNat_eq_shift_add_digit v
  exact hv ▸ .singleton _

theorem encLoop_of_last {n : Nat} {v : BitVec 32} {t : Text} (hlast : v >>> 5 = 0#32) :
    encLoop (n + 1) v t = [v.extractLsb' 0 5].map alpha ++ t := by
  rw [encLoop, if_pos hlast]; rfl

theorem encLoop_of_more {n : Nat} {v : BitVec 32} {t : Text} (hmore : v >>> 5 ≠ 0#32) :
    encLoop (n + 1) v t = encLoop n (v >>> 5) (alpha (v.extractLsb' 0 5) :: t) := by
  rw [encLoop, if_neg hmore]

/-- The loop puts the numeral of its value in front (40_base32_encoder.md R100, R104). -/
theorem encLoop_isNumeral (n : Nat) (v : BitVec 32) (t : Text) (hv : v.toNat < 32 ^ (n + 1)) :
    ∃ ds, encLoop (n + 1) v t = ds.map alpha ++ t ∧ IsNumeral v.toNat ds ∧ ds.length ≤ n + 1 := by
  have hsplit := toNat_eq_shift_add_digit v
  induction n generalizing v t with
  | zero =>
    have hlast : v >>> 5 = 0#32 := by bv_omega
    exact ⟨_, encLoop_of_last hlast, isNumeral_of_last hlast, le_rfl⟩
  | succ n ih =>
    by_cases hlast : v >>> 5 = 0#32
    · exact ⟨_, encLoop_of_last hlast, isNumeral_of_last hlast, by simp⟩
    · have hrest : (v >>> 5).toNat ≠ 0 := fun h => hlast (BitVec.eq_of_toNat_eq h)
      obtain ⟨ds, he, hnum, hlen⟩ := ih (v >>> 5) (alpha (v.extractLsb' 0 5) :: t)
        (by rw [pow_succ] at hv; omega) (toNat_eq_shift_add_digit _)
      refine ⟨ds ++ [v.extractLsb' 0 5], ?_, hsplit ▸ hnum.snoc hrest _, by simpa using hlen⟩
      rw [encLoop_of_more hlast, he, List.map_append, List.append_assoc]; rfl

/-- `enc32(v)` spells the numeral of `v`. -/
theorem enc32_isNumeral (v : BitVec 32) :
    ∃ ds, enc32 v = ds.map alpha ∧ IsNumeral v.toNat ds ∧ ds.length ≤ 7 := by
  simpa [enc32] using encLoop_isNumeral 6 v [] (by omega)

theorem charClass_of_mem_enc32 {v : BitVec 32} {c : Byte} (hc : c ∈ enc32 v) :
    charClass c = .sym := by
  obtain ⟨ds, he, -⟩ := enc32_isNumeral v
  rw [he] at hc
  obtain ⟨d, -, rfl⟩ := List.mem_map.mp hc
  exact charClass_alpha d

theorem hyphenChar_not_mem_enc32 (v : BitVec 32) : hyphenChar ∉ enc32 v :=
  fun h => absurd (charClass_of_mem_enc32 h) (by decide)

theorem enc32_length (v : BitVec 32) : 1 ≤ (enc32 v).length ∧ (enc32 v).length ≤ 7 := by
  obtain ⟨ds, he, hnum, hlen⟩ := enc32_isNumeral v
  rw [he, List.length_map]
  exact ⟨List.length_pos_iff.mpr hnum.ne_nil, hlen⟩

/-- Settles O46: the claims about the symbols are claims about the digits of the numeral. -/
theorem encodedTextIsCanonical : Obligations.EncodedTextIsCanonical := by
  intro v
  obtain ⟨hpos, hle⟩ := enc32_length v
  refine ⟨hpos, hle, fun c => charClass_of_mem_enc32, ?_, rfl, ?_⟩
  all_goals
    obtain ⟨ds, he, hnum, -⟩ := enc32_isNumeral v
    rw [he, List.head?_map]
  · intro hhead
    obtain ⟨d, hd, hcode⟩ := Option.map_eq_some_iff.mp hhead
    have hd0 : d = 0#5 := alpha_injective hcode
    rw [hnum.zero_of_head (hd0 ▸ hd)]; rfl
  · intro hlen
    obtain hd | hd | hd := hnum.head_of_seven v.isLt (by simpa using hlen) <;> rw [hd]
    · exact .inl rfl
    · exact .inr (.inl rfl)
    · exact .inr (.inr rfl)

/-! ## The text of `TOBG` (30_encoding.md R81) -/

theorem segments_of_not_mem {s : Text} (h : hyphenChar ∉ s) : segments s = [s] := by
  induction s with
  | nil => rfl
  | cons c cs ih =>
    obtain ⟨hc, hcs⟩ : hyphenChar ≠ c ∧ hyphenChar ∉ cs := by simpa using h
    rw [segments, if_neg (Ne.symm hc), ih hcs]

theorem segments_append_hyphen {s : Text} (h : hyphenChar ∉ s) (t : Text) :
    segments (s ++ hyphenChar :: t) = s :: segments t := by
  induction s with
  | nil => rfl
  | cons c cs ih =>
    obtain ⟨hc, hcs⟩ : hyphenChar ≠ c ∧ hyphenChar ∉ cs := by simpa using h
    rw [List.cons_append, segments, if_neg (Ne.symm hc), ih hcs]

theorem segments_tobgText (u : BitVec 128) : segments (tobgText u) =
    [enc32 (group u 0), enc32 (group u 1), enc32 (group u 2), enc32 (group u 3)] := by
  simp only [tobgText, List.append_assoc, List.cons_append, List.nil_append]
  rw [segments_append_hyphen (hyphenChar_not_mem_enc32 _),
    segments_append_hyphen (hyphenChar_not_mem_enc32 _),
    segments_append_hyphen (hyphenChar_not_mem_enc32 _),
    segments_of_not_mem (hyphenChar_not_mem_enc32 _)]

theorem enc32_ne_nil (v : BitVec 32) : enc32 v ≠ [] :=
  List.length_pos_iff.mp (enc32_length v).1

/-- Settles O52: the segments are the encoded groups, and each has one to seven symbols. -/
theorem tobgTextShape : Obligations.TobgTextShape := by
  intro u
  have h0 := enc32_length (group u 0)
  have h1 := enc32_length (group u 1)
  have h2 := enc32_length (group u 2)
  have h3 := enc32_length (group u 3)
  refine ⟨segments_tobgText u, ?_, fun c hc => ?_, ?_, ?_⟩
  · simp [segments_tobgText, enc32_ne_nil]
  · by_cases hh : c = hyphenChar
    · exact .inr hh
    simp only [tobgText, List.mem_append, List.mem_singleton, hh, or_false] at hc
    obtain ((hc | hc) | hc) | hc := hc <;> exact .inl (charClass_of_mem_enc32 hc)
  all_goals
    simp only [tobgText, List.length_append, List.length_singleton]
    omega

end Sys2Proof.Machine
end

section
/-! The canonical UUID text (30_encoding.md R86). -/

namespace Sys2Proof.Machine

open Sys2Proof.Claims

/-- Digit `k` of group `g` is hex digit `8g + k` of the UUID (42_group_formatter.md R161). -/
theorem extract_group_eq_hexDigit (u : BitVec 128) {g k : Nat} (hg : g < 4) (hk : k < 8) :
    (group u g).extractLsb' (28 - 4 * k) 4 = hexDigit u (8 * g + k) := by
  apply BitVec.eq_of_getLsbD_eq
  intro i hi
  simp only [group, hexDigit, BitVec.getLsbD_extractLsb']
  rw [show 96 - 32 * g + (28 - 4 * k + i) = 124 - 4 * (8 * g + k) + i by omega]
  have hin : 28 - 4 * k + i < 32 := by omega
  simp only [hin, decide_true, Bool.true_and]

/-- The characters of `n` hex digits of the UUID from digit `k` on. -/
def hexText (u : BitVec 128) (k n : Nat) : Text :=
  (List.range' k n).map fun j => hexdig (hexDigit u j)

theorem hex8_group (u : BitVec 128) {g : Nat} (hg : g < 4) :
    hex8 (group u g) = hexText u (8 * g) 8 := by
  have h := fun k (hk : k < 8) => congrArg hexdig (extract_group_eq_hexDigit u hg hk)
  simp only [hex8, hexText, List.map_cons, List.map_nil, h, Nat.reduceLT]
  rfl

theorem hexText_add (u : BitVec 128) (k m n : Nat) :
    hexText u k (m + n) = hexText u k m ++ hexText u (k + m) n := by
  simp [hexText, ← List.range'_append_1]

theorem hexText_getElem? (u : BitVec 128) {k n j : Nat} (h : j < n) :
    (hexText u k n)[j]? = some (hexdig (hexDigit u (k + j))) := by
  simp [hexText, h]

@[simp] theorem hexText_length (u : BitVec 128) (k n : Nat) : (hexText u k n).length = n := by
  simp [hexText]

/-- A digit of the first group of a text. -/
theorem getElem?_hexText_append (u : BitVec 128) {k n j : Nat} (t : Text) (h : j < n) :
    (hexText u k n ++ t)[j]? = some (hexdig (hexDigit u (k + j))) := by
  rw [List.getElem?_append_left (by simpa), hexText_getElem? u h]

/-- A place after the first hyphen. -/
theorem getElem?_hexText_hyphen (u : BitVec 128) {k n j : Nat} (t : Text) (h : n < j) :
    (hexText u k n ++ hyphenChar :: t)[j]? = t[j - (n + 1)]? := by
  rw [List.getElem?_append_right (by rw [hexText_length]; omega), hexText_length,
    show j - n = j - (n + 1) + 1 by omega, List.getElem?_cons_succ]

/-- The canonical text is 8, 4, 4, 4 and 12 hex digits, in order, with a hyphen between
(30_encoding.md R86). -/
theorem uuidText_eq_hexText (u : BitVec 128) : uuidText u =
    hexText u 0 8 ++ hyphenChar :: (hexText u 8 4 ++ hyphenChar :: (hexText u 12 4 ++
      hyphenChar :: (hexText u 16 4 ++ hyphenChar :: hexText u 20 12))) := by
  have htake (k : Nat) : (hexText u k 8).take 4 = hexText u k 4 := by
    rw [hexText_add u k 4 4, List.take_left' (by simp)]
  have hdrop (k : Nat) : (hexText u k 8).drop 4 = hexText u (k + 4) 4 := by
    rw [hexText_add u k 4 4, List.drop_left' (by simp)]
  rw [uuidText, hex8_group u (g := 0) (by decide), hex8_group u (g := 1) (by decide),
    hex8_group u (g := 2) (by decide), hex8_group u (g := 3) (by decide), htake,
    htake, hdrop, hdrop, hexText_add u 20 4 8]
  simp only [List.append_assoc, List.cons_append, List.nil_append]

theorem hexdig_eq : ∀ n : BitVec 4, hexdig n =
    if n.toNat < 10 then BitVec.ofNat 8 (0x30 + n.toNat) else BitVec.ofNat 8 (0x37 + n.toNat) := by
  decide

/-- Settles O51: the places of the hyphens and of the digits are read off the layout. -/
theorem uuidTextLayout : Obligations.UuidTextLayout := by
  intro u
  refine ⟨uuidText_length u, ?_, fun k hk => ?_, hexdig_eq⟩
  · rw [uuidText_eq_hexText]
    simp [List.getElem?_append]
  · rw [uuidText_eq_hexText, hyphensBefore]
    split_ifs
    all_goals
      simp (disch := omega) only [getElem?_hexText_hyphen, getElem?_hexText_append,
        hexText_getElem?]
      congr 3
      omega

end Sys2Proof.Machine
end

section
/-! Which texts `FROMBG` accepts (30_encoding.md R82; 42_group_formatter.md R172). -/

namespace Sys2Proof.Machine

open Sys2Proof.Claims

/-- Only a foreign character stops the decoder (41_base32_decoder.md R131, R137). -/
theorem decFrom_eq_acc_iff (a : BitVec 64) (t : Text) :
    (∃ a', decFrom a t = .acc a') ↔ ∀ c ∈ t, charClass c = .sym := by
  induction t generalizing a with
  | nil => simp [decFrom]
  | cons c cs ih =>
    rw [decFrom, List.forall_mem_cons, charClass_eq_sym_iff]
    cases rev c with
    | none => simp
    | some i => simpa using ih (pushDigit a i)

theorem dec_eq_acc_iff (t : Text) : (∃ a, dec t = .acc a) ↔ ∀ c ∈ t, charClass c = .sym :=
  decFrom_eq_acc_iff 0#64 t

/-- The segment decodes to a value of a group. -/
def InRange (s : Text) : Prop := ∃ a, dec s = .acc a ∧ a.toNat < 2 ^ 32

theorem inRange_of_acc {s : Text} {a : BitVec 64} (h : dec s = .acc a) :
    InRange s ↔ isWide a = false := by
  simp [InRange, h, ← Bool.not_eq_true, isWide_iff]

theorem not_inRange_of_bad {s : Text} {c : Byte} (h : dec s = .bad c) : ¬ InRange s := by
  simp [InRange, h]

theorem inRange_iff (s : Text) :
    InRange s ↔ (∀ c ∈ s, charClass c = .sym) ∧ ∀ a, dec s = .acc a → a.toNat < 2 ^ 32 := by
  rw [← dec_eq_acc_iff]
  constructor
  · rintro ⟨a, ha, hlt⟩
    exact ⟨⟨a, ha⟩, fun a' ha' => by cases ha.symm.trans ha'; exact hlt⟩
  · rintro ⟨⟨a, ha⟩, hlt⟩
    exact ⟨a, ha, hlt a ha⟩

/-- `o` answers with status `OK`. -/
def AnswersOk (o : Option Answer) : Prop := ∃ a, o = some a ∧ a.status = .ok

theorem answersOk_some (a : Answer) : AnswersOk (some a) ↔ a.status = .ok := by
  simp [AnswersOk]

theorem not_answersOk_raiseChar (c : Byte) : ¬ AnswersOk (some (.raiseChar c)) := by
  simp [AnswersOk, Answer.raiseChar, Answer.raise]

theorem not_answersOk_invalidFormat : ¬ AnswersOk (some (.raise .invalidFormat)) := by
  simp [AnswersOk, Answer.raise]

/-- The range check of `MAG32` passes when no accumulator is wide (42_group_formatter.md R184). -/
theorem answersOk_reassemble (segs : List Text) (a0 a1 a2 a3 : BitVec 64) :
    AnswersOk (reassemble .mag32 segs a0 a1 a2 a3) ↔
      isWide a0 = false ∧ isWide a1 = false ∧ isWide a2 = false ∧ isWide a3 = false := by
  have hflags : (isWide a0 || isWide a1 || isWide a2 || isWide a3) = false ↔
      isWide a0 = false ∧ isWide a1 = false ∧ isWide a2 = false ∧ isWide a3 = false := by
    simp [and_assoc]
  rw [← hflags]
  cases hwide : isWide a0 || isWide a1 || isWide a2 || isWide a3 with
  | false => simp [reassemble, rangeStatus, hwide, answersOk_some, Answer.okText, Answer.raise]
  | true => simp [reassemble, rangeStatus, hwide, answersOk_some, Answer.raise]

/-- The checks of 42_group_formatter.md R172 that a text passes. -/
theorem answersOk_fromBgAnswer (t : Text) : AnswersOk (fromBgAnswer .mag32 t) ↔
    spaceChar ∉ t ∧ 4 ≤ (segments t).length ∧ ∀ s ∈ (segments t).take 4, InRange s := by
  by_cases hsp : spaceChar ∈ t
  · rw [fromBgAnswer, if_pos hsp]
    simp [hsp, not_answersOk_invalidFormat]
  rw [fromBgAnswer, if_neg hsp]
  split
  case h_1 s0 s1 s2 s3 rest hs =>
    have hrhs : (spaceChar ∉ t ∧ 4 ≤ (segments t).length ∧
        ∀ s ∈ (segments t).take 4, InRange s) ↔
          InRange s0 ∧ InRange s1 ∧ InRange s2 ∧ InRange s3 := by
      simp [hs, hsp]
    rw [hrhs]
    cases h0 : dec s0 with
    | bad c => simp [not_answersOk_raiseChar, not_inRange_of_bad h0]
    | acc a0 =>
    cases h1 : dec s1 with
    | bad c => simp [not_answersOk_raiseChar, not_inRange_of_bad h1]
    | acc a1 =>
    cases h2 : dec s2 with
    | bad c => simp [not_answersOk_raiseChar, not_inRange_of_bad h2]
    | acc a2 =>
    cases h3 : dec s3 with
    | bad c => simp [not_answersOk_raiseChar, not_inRange_of_bad h3]
    | acc a3 =>
    simp only [answersOk_reassemble, inRange_of_acc h0, inRange_of_acc h1, inRange_of_acc h2,
      inRange_of_acc h3]
  case h_2 hshort =>
    have hlt : ¬ 4 ≤ (segments t).length := by
      match hs : segments t with
      | [] | [_] | [_, _] | [_, _, _] => simp
      | s0 :: s1 :: s2 :: s3 :: rest => exact (hshort s0 s1 s2 s3 rest hs).elim
    simp [hlt, not_answersOk_invalidFormat]

theorem inRange_segments_iff (t : Text) : (∀ s ∈ (segments t).take 4, InRange s) ↔
    (∀ c ∈ checkedChars t, charClass c = .sym) ∧
      ∀ s ∈ (segments t).take 4, ∀ a, dec s = .acc a → a.toNat < 2 ^ 32 := by
  simp only [inRange_iff]
  constructor
  · intro h
    refine ⟨fun c hc => ?_, fun s hs => (h s hs).2⟩
    obtain ⟨s, hs, hc⟩ := List.mem_flatten.mp hc
    exact (h s hs).1 c hc
  · rintro ⟨hsym, hlt⟩ s hs
    exact ⟨fun c hc => hsym c (List.mem_flatten_of_mem hs hc), hlt s hs⟩

/-- Settles O55: the conditions on the characters and on the values are those of the segments
before the fourth hyphen, segment by segment. -/
theorem textsAcceptedByFrombg : Obligations.TextsAcceptedByFrombg := by
  intro t
  have hlen : 4 ≤ (segments t).length ↔ 3 ≤ t.count hyphenChar := by
    rw [segments_length]; omega
  refine (answersOk_fromBgAnswer t).trans ?_
  rw [hlen, inRange_segments_iff]

end Sys2Proof.Machine
end

section
/-! The encoder in closed form (40_base32_encoder.md R101, R102, R107), and the decoder as its
inverse (R111; 41_base32_decoder.md R141): `enc32(v)` spells the `L(v)` low digits of `v`, most
significant first. -/

namespace Sys2Proof.Machine

open Sys2Proof.Claims

/-! ## The digits of a value (R101) -/

theorem digitSlice_toNat (v : BitVec 32) (k : Nat) :
    (digitSlice v k).toNat = v.toNat / 32 ^ k % 32 := by
  rw [digitSlice, BitVec.extractLsb'_toNat, Nat.shiftRight_eq_div_pow, pow_mul]; rfl

theorem digit_eq_digitSlice (v : BitVec 32) (k : Nat) : digit v k = digitSlice v k := by
  apply BitVec.eq_of_toNat_eq
  rw [digitSlice_toNat, digit, BitVec.toNat_ofNat]

/-- Digit `k` is the low digit of the value shifted right by `5k`. -/
theorem extractLsb'_zero_shift (v : BitVec 32) (k : Nat) :
    (v >>> (5 * k)).extractLsb' 0 5 = digitSlice v k := by
  apply BitVec.eq_of_toNat_eq
  simp [digitSlice]

theorem shift_shift_five (v : BitVec 32) (k : Nat) : v >>> (5 * k) >>> 5 = v >>> (5 * (k + 1)) :=
  (BitVec.shiftRight_add v (5 * k) 5).symm

/-- Settles O44: the digits are quotients by powers of 32, and the loop takes the low one of what it
has not shifted out. -/
theorem digitsRebuildTheValue : Obligations.DigitsRebuildTheValue := by
  intro v
  refine ⟨?_, ?_, fun _ _ => rfl, ?_, fun k => ?_, fun n k t hmore => ?_, fun n k t hlast => ?_⟩
  · simp only [digitSlice_toNat]; omega
  · rw [digitSlice_toNat]; omega
  · apply BitVec.eq_of_toNat_eq
    simp only [digitSlice_toNat, BitVec.toNat_append, BitVec.extractLsb'_toNat,
      Nat.shiftRight_eq_div_pow, BitVec.toNat_ofNat, Nat.zero_mod, Nat.zero_shiftLeft, Nat.zero_or]
    omega
  · rw [digitSlice_toNat, BitVec.toNat_and, BitVec.toNat_ushiftRight, Nat.shiftRight_eq_div_pow,
      pow_mul]
    exact (Nat.and_two_pow_sub_one_eq_mod _ 5).symm
  · rw [encLoop_of_more hmore, shift_shift_five, extractLsb'_zero_shift]
  · rw [encLoop_of_last hlast, extractLsb'_zero_shift]; rfl

/-! ## The length (R102) -/

/-- `L(v)` counts the base-32 digits of `v`. -/
theorem encLength_eq_log (v : BitVec 32) : encLength v = Nat.log 32 v.toNat + 1 := by
  rw [encLength]
  split_ifs with hv
  · simp [hv]
  · have hne : v.toNat ≠ 0 := fun h => hv (BitVec.eq_of_toNat_eq h)
    have hlog : Nat.log 32 v.toNat = Nat.log 2 v.toNat / 5 := Nat.log_pow_left 2 5 _
    rw [bitlen, if_neg hne, Nat.log2_eq_log_two, hlog]
    omega

theorem encLength_of_last {v : BitVec 32} (hlast : v >>> 5 = 0#32) : encLength v = 1 := by
  have hsplit := toNat_eq_shift_add_digit v
  rw [encLength_eq_log, Nat.log_of_lt (by bv_omega)]

theorem encLength_of_more {v : BitVec 32} (hmore : v >>> 5 ≠ 0#32) :
    encLength v = encLength (v >>> 5) + 1 := by
  have hsplit := toNat_eq_shift_add_digit v
  have hle : 32 ≤ v.toNat := by bv_omega
  rw [encLength_eq_log, encLength_eq_log, Nat.log_of_one_lt_of_le (by decide) hle,
    BitVec.toNat_ushiftRight, Nat.shiftRight_eq_div_pow]

/-- The digit at `L(v) - 1` is the leading one. -/
theorem digitSlice_encLength_ne_zero {v : BitVec 32} (hv : v ≠ 0#32) :
    digitSlice v (encLength v - 1) ≠ 0#5 := by
  have hne : v.toNat ≠ 0 := fun h => hv (BitVec.eq_of_toNat_eq h)
  have hlow := Nat.div_pos (Nat.pow_log_le_self 32 hne) (by positivity)
  have hhigh : v.toNat / 32 ^ Nat.log 32 v.toNat < 32 :=
    Nat.div_lt_of_lt_mul (Nat.lt_pow_succ_log_self (by decide : 1 < 32) _)
  intro h
  have h := congrArg BitVec.toNat h
  rw [digitSlice_toNat, encLength_eq_log, Nat.add_sub_cancel, Nat.mod_eq_of_lt hhigh] at h
  exact hlow.ne' h

theorem digitSlice_of_encLength_le {v : BitVec 32} {k : Nat} (hk : encLength v ≤ k) :
    digitSlice v k = 0#5 := by
  rw [encLength_eq_log] at hk
  have hlt : v.toNat < 32 ^ k := Nat.lt_pow_of_log_lt (by decide) hk
  apply BitVec.eq_of_toNat_eq
  rw [digitSlice_toNat, Nat.div_eq_of_lt hlt]; rfl

/-! ## The text -/

/-- The `n` low digits of `v`, most significant first. -/
def lowDigits (v : BitVec 32) (n : Nat) : List (BitVec 5) :=
  (List.range n).map fun j => digitSlice v (n - 1 - j)

@[simp] theorem lowDigits_length (v : BitVec 32) (n : Nat) : (lowDigits v n).length = n := by
  simp [lowDigits]

theorem lowDigits_getElem? (v : BitVec 32) {n j : Nat} (hj : j < n) :
    (lowDigits v n)[j]? = some (digitSlice v (n - 1 - j)) := by
  simp [lowDigits, hj]

theorem lowDigits_succ (v : BitVec 32) (n : Nat) :
    lowDigits v (n + 1) = lowDigits (v >>> 5) n ++ [v.extractLsb' 0 5] := by
  have hshift (j : Nat) (hj : j < n) : digitSlice v (n - j) = digitSlice (v >>> 5) (n - 1 - j) := by
    rw [← extractLsb'_zero_shift, ← extractLsb'_zero_shift, ← BitVec.shiftRight_add]
    congr 2; omega
  rw [lowDigits, List.range_succ, List.map_append, Nat.add_sub_cancel]
  congr 1
  · exact List.map_congr_left fun j hj => hshift j (List.mem_range.mp hj)
  · simp [digitSlice]

/-- The loop puts the `L(v)` low digits of its value in front (R100, R104). -/
theorem encLoop_eq_lowDigits (n : Nat) (v : BitVec 32) (t : Text) (hn : encLength v ≤ n) :
    encLoop n v t = (lowDigits v (encLength v)).map alpha ++ t := by
  induction n generalizing v t with
  | zero => rw [encLength_eq_log] at hn; omega
  | succ n ih =>
    by_cases hlast : v >>> 5 = 0#32
    · rw [encLoop_of_last hlast, encLength_of_last hlast]; rfl
    · have hlen := encLength_of_more hlast
      rw [encLoop_of_more hlast, ih _ _ (by omega), hlen, lowDigits_succ, List.map_append,
        List.append_assoc]
      rfl

theorem encLength_le_seven (v : BitVec 32) : encLength v ≤ 7 := by
  have hlog : Nat.log 32 v.toNat < 7 := Nat.log_lt_of_lt_pow' (by decide) (by omega)
  rw [encLength_eq_log]; omega

theorem enc32_eq_lowDigits (v : BitVec 32) :
    enc32 v = (lowDigits v (encLength v)).map alpha := by
  rw [enc32, encLoop_eq_lowDigits _ _ _ (encLength_le_seven v), List.append_nil]

/-- Settles O43: the text spells the low digits, of which the leading one is not zero. -/
theorem encodedTextClosedForm : Obligations.EncodedTextClosedForm := by
  intro v
  simp only [digit_eq_digitSlice, enc32_eq_lowDigits, List.length_map, lowDigits_length,
    List.getElem?_map]
  exact ⟨trivial, fun j hj => by rw [lowDigits_getElem? v hj]; rfl,
    fun hv => ⟨digitSlice_encLength_ne_zero hv, fun k => digitSlice_of_encLength_le⟩⟩

/-! ## The unrolled encoder (R107) -/

/-- The priority encoder finds the leading digit: its tests above that digit fail, and the test at
it succeeds. -/
theorem priorityLength_eq {v : BitVec 32} {n : Nat} (hpos : 1 ≤ n) (hle : n ≤ 7)
    (hlead : n ≠ 1 → digitSlice v (n - 1) ≠ 0#5) (hzero : ∀ k, n ≤ k → digitSlice v k = 0#5) :
    priorityLength v = n := by
  interval_cases n <;> simp_all [priorityLength]

theorem priorityLength_eq_encLength (v : BitVec 32) : priorityLength v = encLength v := by
  refine priorityLength_eq ?_ (encLength_le_seven v) (fun hne => ?_)
    fun k => digitSlice_of_encLength_le
  · rw [encLength_eq_log]; omega
  · exact digitSlice_encLength_ne_zero (by rintro rfl; exact hne rfl)

/-- Settles O45: both forms spell the low digits, and the priority encoder gives their number. -/
theorem unrolledEncoderIsTheLoop : Obligations.UnrolledEncoderIsTheLoop := by
  intro v
  rw [enc32_eq_lowDigits, ← priorityLength_eq_encLength, lowDigits, List.map_map]; rfl

/-! ## Decoding (41_base32_decoder.md R131, R132) -/

theorem pushDigit_ofNat (m : Nat) (d : BitVec 5) :
    pushDigit (BitVec.ofNat 64 m) d = BitVec.ofNat 64 (32 * m + d.toNat) := by
  apply BitVec.eq_of_toNat_eq
  rw [pushDigit_toNat, BitVec.toNat_ofNat, BitVec.toNat_ofNat]
  omega

/-- A text of symbols decodes to the number that its digits write, after what was read before. -/
theorem decFrom_map_alpha (m : Nat) (ds : List (BitVec 5)) :
    decFrom (BitVec.ofNat 64 m) (ds.map alpha) =
      .acc (BitVec.ofNat 64 (m * 32 ^ ds.length + positional ds)) := by
  induction ds generalizing m with
  | nil => simp [decFrom, positional]
  | cons d ds ih =>
    have hvalue : (32 * m + d.toNat) * 32 ^ ds.length + positional ds =
        m * 32 ^ (d :: ds).length + positional (d :: ds) := by
      rw [positional, List.length_cons]; ring
    simp only [List.map_cons, decFrom, rev_alpha]
    rw [pushDigit_ofNat, ih, hvalue]

theorem dec_map_alpha (ds : List (BitVec 5)) :
    dec (ds.map alpha) = .acc (BitVec.ofNat 64 (positional ds)) := by
  simpa [dec] using decFrom_map_alpha 0 ds

theorem dec_enc32 (v : BitVec 32) : dec (enc32 v) = .acc (v.zeroExtend 64) := by
  obtain ⟨ds, he, hnum, -⟩ := enc32_isNumeral v
  rw [he, dec_map_alpha, hnum.value, BitVec.ofNat_toNat]

/-- Settles O47: the symbols write the value, and a 32-bit value can be read off its accumulator. -/
theorem decodingInvertsEncoding : Obligations.DecodingInvertsEncoding := by
  refine ⟨dec_enc32, fun v w h => ?_⟩
  have hacc : v.zeroExtend 64 = w.zeroExtend 64 := by
    simpa [dec_enc32] using congrArg dec h
  bv_omega

end Sys2Proof.Machine
end

section
/-! The steps of `ENC_ITER` (40_base32_encoder.md R105, R106): the registers by equations, one per
case of the step, and the edge around them. -/

namespace Sys2Proof.Machine

open Sys2Proof.Claims

/-! ## The edge -/

theorem HostSide.tinPort_eq_none_iff (h : HostSide) : h.tinPort = none ↔ h.tinValid = false := by
  cases hq : h.tinQ <;> simp [HostSide.tinPort, HostSide.tinValid, hq]

/-- Duty H3 (70_reset_and_hazards.md R255) is what the model tests for at an edge. -/
theorem strayText_eq_false_iff_owned (s : State) : s.strayText = false ↔ Owned s := by
  have htext : s.host.cmdQ.any takesText = true ↔ SomeText s.host.cmdQ := by
    simp [SomeText, takesText]
  have hready : s.blk.tinReady = true ↔ s.blk.st = .decText ∨ s.blk.st = .fromBgText := by
    simp [Block.tinReady]
  rw [Owned, HostSide.tinPort_eq_none_iff, ← htext, ← or_assoc (a := s.blk.st = .decText), ← hready]
  simp only [State.strayText, Bool.and_eq_false_iff, Bool.not_eq_false', or_assoc]

/-- An `ENC_ITER` step whose registers have a step (R247). -/
theorem step_of_encIter {s : State} {b : Block} (hr : s.host.rst = false) (ho : Owned s)
    (hst : s.blk.st = .encIter) (hb : s.blk.encIter = some b) :
    step s = .next { s with blk := b, host := passed s.host } := by
  rw [step_of_rst hr, (strayText_eq_false_iff_owned s).mpr ho, if_neg Bool.false_ne_true,
    clockEdge_of_encIter hst, encIter, State.pass_blk, hb]
  rfl

/-! ## The registers -/

theorem Block.encLen_ne_seven {b : Block} (h : b.encLen.toNat < 7) : b.encLen ≠ 7#3 := by
  bv_omega

theorem Block.encIter_of_last {b : Block} (hlen : b.encLen ≠ 7#3) (hlast : b.encSh >>> 5 = 0#32) :
    b.encIter = b.encDigit.finishValue := by
  rw [Block.encIter, if_neg hlen, if_pos (by exact hlast)]

theorem Block.lastValue_iff (b : Block) :
    b.lastValue = true ↔ b.opR = opEnc32 ∨ b.fmtSeg = 3#3 := by
  simp [Block.lastValue]

/-- The last value of a command is answered, if the result has room for its symbols. -/
theorem Block.finishValue_of_last {b : Block} (hlast : b.lastValue = true)
    (hroom : b.outLen.toNat + b.encText.length ≤ 36) :
    b.finishValue = some ((b.appendText b.encText).answer .ok) := by
  rw [Block.finishValue, if_pos hlast, if_pos hroom]

/-- One of the groups 0 to 2 is followed by a hyphen and the next group, if there is room. -/
theorem Block.finishValue_of_group {b : Block} (hlast : b.lastValue = false)
    (hseg : b.fmtSeg < 3#3) (hroom : b.outLen.toNat + b.encText.length + 1 ≤ 36) :
    b.finishValue =
      some { (b.appendText (b.encText ++ [hyphenChar])).loadEncoder
        (group b.fmtUuid (b.fmtSeg.toNat + 1)) with fmtSeg := b.fmtSeg + 1#3 } := by
  rw [Block.finishValue, if_neg (by simp [hlast]), if_pos ⟨hseg, hroom⟩]

/-- `writeText` writes its text and keeps the other entries. -/
theorem writeText_written (buf : Vector Byte 36) (pos : Nat) (t : Text) :
    Written buf (writeText buf pos t) pos t := by
  intro k hk
  split_ifs with hin
  · obtain ⟨j, rfl⟩ := Nat.exists_eq_add_of_le hin.1
    simpa using writeText_getElem buf pos t j hk (by omega)
  · obtain hlt | hge := Nat.lt_or_ge k pos
    · exact writeText_getElem_of_lt buf pos t k hk hlt
    · exact writeText_getElem_of_ge buf pos t k hk (by omega)

/-! ## The two statements -/

/-- Settles O24: with a rest to shift, the step is the digit step. -/
theorem digitStepOfTheEncoder : Obligations.DigitStepOfTheEncoder := by
  intro s hr ho hst hlen hmore
  exact step_of_encIter hr ho hst (Block.encIter_of_more (Block.encLen_ne_seven hlen) hmore)

/-- Settles O25: with no rest, the digit step is followed by `finish`, which has room for the
symbols and the hyphen. -/
theorem finishOfTheEncoder : Obligations.FinishOfTheEncoder := by
  intro s hr ho hst hlen hlast hseg hroom n syms
  have hfinish := Block.encIter_of_last (Block.encLen_ne_seven hlen) hlast
  have hdigit : s.blk.encDigit =
      { s.blk with encSym := syms, encLen := s.blk.encLen + 1#3, encSh := 0#32 } := by
    rw [← hlast]; rfl
  have hlength : s.blk.encDigit.encText.length = n := Block.encDigit_encText_length (by omega)
  have htext : s.blk.encDigit.encText = syms.toList.take n := by
    rw [Block.encText, Block.encDigit_encLen, show (s.blk.encLen + 1#3).toNat = n by bv_omega]; rfl
  have hfits : s.blk.encDigit.outLen.toNat + s.blk.encDigit.encText.length + 1 ≤ 36 := by
    rw [Block.encDigit_outLen, hlength]; omega
  refine ⟨fun hop => ⟨_, writeText_written _ _ _, ?_⟩,
    fun hop hgroup => ⟨_, writeText_written _ _ _, ?_⟩⟩
  · have hyes : s.blk.encDigit.lastValue = true := (Block.lastValue_iff _).mpr hop
    rw [Block.finishValue_of_last hyes (Nat.le_of_succ_le hfits)] at hfinish
    rw [step_of_encIter hr ho hst hfinish, Block.appendText, hlength, htext, hdigit]
    rfl
  · have hnot : s.blk.encDigit.lastValue = false := by
      rw [← Bool.not_eq_true, Block.lastValue_iff]; exact not_or.mpr ⟨hop, hgroup⟩
    have hlt : s.blk.encDigit.fmtSeg < 3#3 := by rw [Block.encDigit_fmtSeg]; bv_omega
    rw [Block.finishValue_of_group hnot hlt hfits] at hfinish
    rw [step_of_encIter hr ho hst hfinish, Block.appendText, List.length_append, hlength, htext,
      hdigit]
    rfl

end Sys2Proof.Machine
end

section
/-! The decoder in closed form (41_base32_decoder.md R132): a shorter numeral is less than the power
of 32 of its length, and digits above the low 64 bits of the value are lost. -/

namespace Sys2Proof.Machine

open Sys2Proof.Claims

theorem positional_lt (ds : List (BitVec 5)) : positional ds < 32 ^ ds.length := by
  induction ds with
  | nil => simp [positional]
  | cons d ds ih =>
    have hd : d.toNat + 1 ≤ 32 := d.isLt
    calc positional (d :: ds) < d.toNat * 32 ^ ds.length + 32 ^ ds.length := by
          rw [positional]; exact Nat.add_lt_add_left ih _
      _ = (d.toNat + 1) * 32 ^ ds.length := by ring
      _ ≤ 32 * 32 ^ ds.length := Nat.mul_le_mul_right _ hd
      _ = 32 ^ (d :: ds).length := by rw [List.length_cons, pow_succ']

theorem positional_append (front ds : List (BitVec 5)) :
    positional (front ++ ds) = positional front * 32 ^ ds.length + positional ds := by
  induction front with
  | nil => simp [positional]
  | cons d front ih =>
    rw [List.cons_append, positional, ih, positional, List.length_append]
    ring

/-- The digits in front of the last thirteen weigh `2^65` or more, and the top bit of the first of
the thirteen weighs `2^64`. -/
theorem positional_mod_of_long (front ds : List (BitVec 5)) (d : BitVec 5) (hlen : ds.length = 12) :
    positional (front ++ d :: ds) % 2 ^ 64 =
      positional (BitVec.ofNat 5 (d.toNat % 16) :: ds) % 2 ^ 64 := by
  rw [positional_append, positional, positional, List.length_cons, hlen, BitVec.toNat_ofNat]
  omega

/-- The accumulator holds 64 bits of the number that the digits write. -/
theorem dec_map_alpha_of_mod_eq {ds : List (BitVec 5)} {m : Nat}
    (h : positional ds % 2 ^ 64 = m % 2 ^ 64) : dec (ds.map alpha) = .acc (BitVec.ofNat 64 m) := by
  rw [dec_map_alpha]
  exact congrArg Decoded.acc (BitVec.eq_of_toNat_eq h)

/-- Settles O48: the accumulator holds the number that the digits write, of which 64 bits stay. -/
theorem decodeIsPositionalModulo : Obligations.DecodeIsPositionalModulo := by
  refine ⟨fun ds => ?_, fun ds hlen => ?_, fun d ds hlen => ?_, fun front ds d hlen => ?_⟩
  · exact dec_map_alpha_of_mod_eq (Nat.mod_mod _ _).symm
  · calc positional ds < 32 ^ ds.length := positional_lt ds
      _ ≤ 32 ^ 12 := Nat.pow_le_pow_right (by decide) hlen
      _ ≤ 2 ^ 64 := by decide
  · have hds := positional_lt ds
    rw [hlen] at hds
    rw [positional, hlen]
    omega
  · exact dec_map_alpha_of_mod_eq (positional_mod_of_long front ds d hlen)

end Sys2Proof.Machine
end

section
/-! Where the decoder stops (41_base32_decoder.md R130, R131, R137, R140). -/

namespace Sys2Proof.Machine

theorem charClass_ne_sym_iff (c : Byte) : charClass c ≠ .sym ↔ rev c = none := by
  rw [ne_eq, charClass_eq_sym_iff, Option.not_isSome_iff_eq_none]

/-- After symbols only, a foreign character stops the decoder. -/
theorem decFrom_of_foreign {front back : Text} {c : Byte} (a : BitVec 64)
    (hfront : ∀ x ∈ front, charClass x = .sym) (hc : charClass c ≠ .sym) :
    decFrom a (front ++ c :: back) = .bad c := by
  induction front generalizing a with
  | nil => simp [decFrom, (charClass_ne_sym_iff c).mp hc]
  | cons x xs ih =>
    obtain ⟨hx, hxs⟩ := List.forall_mem_cons.mp hfront
    obtain ⟨i, hi⟩ := Option.isSome_iff_exists.mp ((charClass_eq_sym_iff x).mp hx)
    simpa [decFrom, hi] using ih (pushDigit a i) hxs

/-- The decoder stops at the first foreign character only. -/
theorem foreign_of_decFrom_bad {t : Text} {c : Byte} {a : BitVec 64} (h : decFrom a t = .bad c) :
    ∃ front back, t = front ++ c :: back ∧ (∀ x ∈ front, charClass x = .sym) ∧
      charClass c ≠ .sym := by
  induction t generalizing a with
  | nil => simp [decFrom] at h
  | cons x xs ih =>
    cases hx : rev x with
    | none =>
      obtain rfl : x = c := by simpa [decFrom, hx] using h
      exact ⟨[], xs, rfl, by simp, (charClass_ne_sym_iff x).mpr hx⟩
    | some i =>
      have hsym : charClass x = .sym := (charClass_eq_sym_iff x).mpr (by simp [hx])
      have hrest : decFrom (pushDigit a i) xs = .bad c := by simpa [decFrom, hx] using h
      obtain ⟨front, back, rfl, hfront, hc⟩ := ih hrest
      exact ⟨x :: front, back, rfl, List.forall_mem_cons.mpr ⟨hsym, hfront⟩, hc⟩

/-- Settles O49: the decoder reads symbols up to the first foreign character. -/
theorem decodeStopsAtTheFirstForeignCharacter :
    Obligations.DecodeStopsAtTheFirstForeignCharacter := by
  refine ⟨fun t c => ⟨foreign_of_decFrom_bad, ?_⟩, dec_eq_acc_iff, rfl, by decide⟩
  rintro ⟨front, back, rfl, hfront, hc⟩
  exact decFrom_of_foreign 0#64 hfront hc

end Sys2Proof.Machine
end

section
/-! The absent text (41_base32_decoder.md R139; 42_group_formatter.md R187). -/

namespace Sys2Proof.Machine

open Sys2Proof.Claims

/-- A row that only answers `NullInput` offers a response with no other field. -/
theorem nullInput_of_exec {i : Instr} {op : BitVec 3} {s : State} (hst : s.blk.st = .idle)
    (hexec : exec i s = whenIdle (fun b => (b.beginCommand op).answer .nullInput) s) :
    ∃ n l, exec i s = .next { s with
        blk := { cleared op n l s.blk with rStatus := 4#3, st := .rsp } } ∧
      Block.response { cleared op n l s.blk with rStatus := 4#3, st := .rsp } =
        bareResponse 4#3 := by
  refine ⟨0, false, ?_, ?_⟩
  · rw [hexec, whenIdle_of_idle hst]; rfl
  · exact Block.answer_bareResponse (b := cleared op 0 false s.blk) (e := .nullInput) rfl
      (by decide) (by decide)

/-- Settles O10: both null rows only answer `NullInput`; the empty text has one segment. -/
theorem nullTextIsAnsweredNullInput : Obligations.NullTextIsAnsweredNullInput :=
  ⟨fun _ _ hst => ⟨nullInput_of_exec hst rfl, nullInput_of_exec hst rfl⟩, fun _ => rfl⟩

end Sys2Proof.Machine
end

section
/-! The steps of a `DEC32` text (41_base32_decoder.md R133, R134, R136). -/

namespace Sys2Proof.Machine

open Sys2Proof.Claims

/-! ## Characters -/

/-- The row of a character is the one that the decoder gives it. -/
theorem eq_decodeChar_of_isCharacter {i : Instr} {c : Byte} (h : IsCharacter i c) :
    i = decodeChar c := by
  obtain ⟨hwf, henc⟩ := h
  rw [← decodeReadsBackEncode i hwf, henc, decode, Laws.decodeBeat_char]

/-- A character of a `DEC32` text is looked up. -/
theorem exec_of_isCharacter {i : Instr} {c : Byte} {s : State} (h : IsCharacter i c)
    (hst : s.blk.st = .decText) : exec i s = .next { s with blk := s.blk.lookUp c } := by
  rw [eq_decodeChar_of_isCharacter h, exec_decodeChar, onText_of_decText hst]

theorem isCharacter_of_symbolDigits : ∀ r ∈ symbolDigits, IsCharacter r.1 (alpha r.2) := by
  unfold IsCharacter; decide

/-- Settles O14: the row of a symbol looks it up, and `REV` gives its digit value. -/
theorem symbolStepOfDec32 : Obligations.SymbolStepOfDec32 := by
  intro r hr s hst hbad
  have hpush : pushDigit s.blk.decAcc r.2 =
      BitVec.ofNat 64 (32 * s.blk.decAcc.toNat + r.2.toNat) :=
    BitVec.eq_of_toNat_eq (by rw [pushDigit_toNat, BitVec.toNat_ofNat])
  refine ⟨s.blk.segSyms + 1, ?_⟩
  rw [exec_of_isCharacter (isCharacter_of_symbolDigits r hr) hst,
    Block.lookUp_symbol hbad (rev_alpha r.2), hpush]

/-- Settles O15: the first foreign character has no `REV` entry; after it nothing is looked up. -/
theorem invalidCharacterStepOfDec32 : Obligations.InvalidCharacterStepOfDec32 := by
  intro i c s hchar hst
  rw [exec_of_isCharacter hchar hst]
  refine ⟨fun hbad hforeign => ?_, fun hbad => ?_⟩
  · rw [Block.lookUp_invalid hbad (rev_eq_none_of_forall_ne hforeign)]
  · rw [Block.lookUp_of_bad hbad]

/-! ## The end of the text -/

theorem wide_iff_isWide (a : BitVec 64) : Wide a ↔ isWide a = true := by
  simp [Wide, isWide]

theorem exec_eot_of_decText {s : State} (c : Byte) (hst : s.blk.st = .decText) :
    exec (.eot c) s = .next { s with blk := s.blk.endDecText } := by
  simp [exec, execEot, hst]

/-- Settles O16: one case of `endDecText` each. -/
theorem eotStepOfDec32 : Obligations.EotStepOfDec32 := by
  intro c s hst
  rw [exec_eot_of_decText c hst]
  refine ⟨fun hbad => ?_, fun hbad hfits => ⟨_, writeText_written _ _ _, ?_⟩, fun hbad hwide => ?_⟩
  · rw [Block.endDecText_of_bad hbad]; rfl
  · rw [wide_iff_isWide, Bool.not_eq_true] at hfits
    rw [Block.endDecText_of_fits hbad hfits, Block.setText, hex8_length]; rfl
  · rw [Block.endDecText_of_wide hbad ((wide_iff_isWide _).mp hwide)]; rfl

end Sys2Proof.Machine
end

section
/-! The characters of a `FROMBG` text (42_group_formatter.md R173 to R177), one step each. -/

namespace Sys2Proof.Machine

open Sys2Proof.Claims

/-- A digit is shifted in at the bottom, and five bits are lost at the top
(41_base32_decoder.md R131). -/
theorem pushDigit_eq_ofNat (a : BitVec 64) (d : BitVec 5) :
    pushDigit a d = BitVec.ofNat 64 (32 * a.toNat + d.toNat) := by
  simpa using pushDigit_ofNat a.toNat d

theorem Block.fmtSeg_lt_four_iff (b : Block) : b.fmtSeg < 4#3 ↔ b.fmtSeg.toNat < 4 := BitVec.lt_def

theorem committed_putGroup (u : BitVec 128) (g : Nat) (v : BitVec 32) :
    Committed u (putGroup u g v) g v :=
  fun k hk => group_putGroup u g k v hk

theorem exec_of_isCharacter_fromBgText {i : Instr} {c : Byte} {s : State} (h : IsCharacter i c)
    (hst : s.blk.st = .fromBgText) : exec i s = .next { s with blk := fromBgChar c s.blk } := by
  rw [eq_decodeChar_of_isCharacter h, exec_decodeChar, onText_of_fromBgText hst]

theorem exec_hyphen_of_fromBgText {s : State} (hst : s.blk.st = .fromBgText) :
    exec .hyphen s = .next { s with blk := s.blk.hyphenStep } :=
  onText_of_fromBgText hst

/-- Settles O17: a space is only marked. -/
theorem spaceStepOfFrombg : Obligations.SpaceStepOfFrombg :=
  fun _ hst => onText_of_fromBgText hst

/-- Settles O18: below four a hyphen commits the segment, and after that it changes nothing. -/
theorem hyphenStepOfFrombg : Obligations.HyphenStepOfFrombg := by
  intro s hst
  rw [exec_hyphen_of_fromBgText hst]
  obtain ⟨hseg, hstep⟩ | ⟨hseg, hstep⟩ := s.blk.hyphenStep_cases
  all_goals rw [s.blk.fmtSeg_lt_four_iff] at hseg
  · refine ⟨fun _ => ⟨_, (s.blk.commit s.blk.fmtSeg.toNat).fmtLong, 0,
      committed_putGroup _ _ _, ?_⟩, fun h => by omega⟩
    rw [hstep]; rfl
  · exact ⟨fun h => absurd h hseg, fun _ => by rw [hstep]⟩

/-- Settles O19: after the fourth hyphen only a space counts. -/
theorem ignoredCharactersOfFrombg : Obligations.IgnoredCharactersOfFrombg := by
  intro i c s hchar hspace _ hst hseg
  rw [exec_of_isCharacter_fromBgText hchar hst, fromBgChar_of_ge hspace]
  rw [s.blk.fmtSeg_lt_four_iff]; omega

/-- Settles O20: in the first four segments a character is looked up, as one of `DEC32` is. -/
theorem lookupStepOfFrombg : Obligations.LookupStepOfFrombg := by
  intro i c s hchar hspace hhyphen hst hseg
  rw [exec_of_isCharacter_fromBgText hchar hst,
    fromBgChar_of_lt hhyphen hspace (s.blk.fmtSeg_lt_four_iff.mpr hseg)]
  refine ⟨fun hbad => ?_, fun hbad d hd => ⟨s.blk.segSyms + 1, ?_⟩, fun hbad hforeign => ?_⟩
  · rw [Block.lookUp_of_bad hbad]
  · rw [Block.lookUp_symbol hbad ((rev_eq_some_iff c d).mpr hd), pushDigit_eq_ofNat]
  · rw [Block.lookUp_invalid hbad (rev_eq_none_of_forall_ne hforeign)]

end Sys2Proof.Machine
end

section
/-! The EOT of a `FROMBG` text (42_group_formatter.md R178, R184): the last segment is committed, and
the status is the code that the flags choose. -/

namespace Sys2Proof.Machine

open Sys2Proof.Claims

/-! ## The last segment -/

/-- The last commit as a record: at most `fmt_uuid`, `fmt_wide` and `fmtLong` change. -/
theorem Block.commitLast_eq (b : Block) : b.commitLast =
    { b with
      fmtUuid := b.commitLast.fmtUuid
      fmtWide := b.fmtWide || (decide (b.fmtSeg.toNat < 4) && isWide b.decAcc)
      fmtLong := b.fmtLong || (decide (b.fmtSeg.toNat < 4) && decide (7 < b.segSyms)) } := by
  obtain ⟨hseg, h⟩ | ⟨hseg, h⟩ := b.commitLast_cases
  all_goals
    rw [b.fmtSeg_lt_four_iff] at hseg
    simp [h, hseg, Block.commit]

theorem Block.commitLast_fmtUuid (b : Block) :
    if b.fmtSeg.toNat < 4 then
      Claims.Committed b.fmtUuid b.commitLast.fmtUuid b.fmtSeg.toNat (b.decAcc.extractLsb' 0 32)
    else b.commitLast.fmtUuid = b.fmtUuid := by
  obtain ⟨hseg, h⟩ | ⟨hseg, h⟩ := b.commitLast_cases
  all_goals rw [b.fmtSeg_lt_four_iff] at hseg
  · rw [if_pos hseg, h]; exact committed_putGroup _ _ _
  · rw [if_neg hseg, h]

/-! ## The status -/

/-- The code of step 4 of R172 under each policy; a command without a meaning has none (R184). -/
def rangeCode (p : RangePolicy) (wide long : Bool) : Option (BitVec 3) :=
  match p with
  | .mag32 => some (if wide then 5#3 else 0#3)
  | .len7 => some (if long then 5#3 else 0#3)
  | .refuse => if wide then none else some 0#3

theorem code_rangeStatus (p : RangePolicy) (wide long : Bool) :
    (rangeStatus p wide long).map Status.code = rangeCode p wide long := by
  cases p with
  | mag32 => cases wide <;> rfl
  | len7 => cases long <;> rfl
  | refuse => cases wide <;> rfl

/-- The flags choose the code in the order of R178. -/
theorem code_fromBgStatus (p : RangePolicy) (b : Block) :
    (fromBgStatus p b).map Status.code =
      if b.fmtSpace then some 2#3 else if b.fmtSeg.toNat < 3 then some 2#3
      else if b.decBad then some 3#3 else rangeCode p b.fmtWide b.fmtLong := by
  have hseg : b.fmtSeg < 3#3 ↔ b.fmtSeg.toNat < 3 := BitVec.lt_def
  simp only [fromBgStatus, hseg, apply_ite (Option.map Status.code), Option.map_some,
    code_rangeStatus, Status.code]

/-! ## The step -/

section
variable {s : State} (c : Byte) (hst : s.blk.st = .fromBgText)
include hst

theorem exec_eot_of_fromBgText_refused (h : fromBgStatus s.policy s.blk.commitLast = none) :
    exec (.eot c) s = .refused .wideSegment := by
  simp only [exec, execEot, hst, Block.endFromBgText_of_none h]

theorem exec_eot_of_fromBgText_error {e : Status}
    (h : fromBgStatus s.policy s.blk.commitLast = some e) (he : e ≠ .ok) :
    exec (.eot c) s = .next { s with blk := s.blk.commitLast.answer e } := by
  simp only [exec, execEot, hst, Block.endFromBgText_of_error h he]

theorem exec_eot_of_fromBgText_ok (h : fromBgStatus s.policy s.blk.commitLast = some .ok) :
    exec (.eot c) s = .next { s with
      blk := (s.blk.commitLast.setText (uuidText s.blk.commitLast.fmtUuid)).answer .ok } := by
  simp only [exec, execEot, hst, Block.endFromBgText_of_ok h]

end

/-- A text of 36 characters fills the result buffer. -/
theorem toList_writeText_of_length {buf : Vector Byte 36} {t : Text} (ht : t.length = 36) :
    (writeText buf 0 t).toList = t := by
  have h := writeText_toList_take buf 0 t (by omega)
  rwa [ht, List.take_of_length_le (by simp), List.take_zero, List.nil_append] at h

/-- Settles O22: the last commit leaves the flags other than the range flags alone, so the code is
chosen on the registers as the rule writes them. -/
theorem eotUnderTheOtherPolicies : Obligations.EotUnderTheOtherPolicies := by
  intro c s hst
  refine ⟨s.blk.commitLast.fmtUuid, s.blk.commitLast_fmtUuid, ?_⟩
  intro wide long status
  have hcommit : s.blk.commitLast =
      { s.blk with fmtUuid := s.blk.commitLast.fmtUuid, fmtWide := wide, fmtLong := long } :=
    s.blk.commitLast_eq
  have hstatus : (fromBgStatus s.policy s.blk.commitLast).map Status.code = status := by
    rw [hcommit]; exact code_fromBgStatus _ _
  rw [← hstatus]
  refine ⟨fun hnone => ?_, fun e he hne => ?_, fun hok =>
    ⟨_, toList_writeText_of_length (buf := s.blk.outBuf) (uuidText_length _), ?_⟩⟩
  · exact exec_eot_of_fromBgText_refused c hst (Option.map_eq_none_iff.mp hnone)
  · obtain ⟨f, hf, rfl⟩ := Option.map_eq_some_iff.mp he
    rw [exec_eot_of_fromBgText_error c hst hf (fun h => hne (h ▸ rfl)), hcommit]
    rfl
  · obtain ⟨f, hf, hcode⟩ := Option.map_eq_some_iff.mp hok
    obtain rfl : f = .ok := Status.code_injective hcode
    rw [exec_eot_of_fromBgText_ok c hst hf, hcommit]
    rfl

/-- Settles O21: the case `MAG32` of O22. -/
theorem eotStepOfFrombg : Obligations.EotStepOfFrombg := by
  rintro c ⟨b, host, policy, resets⟩ (rfl : policy = .mag32) hst
  obtain ⟨u, hu, -, herror, hok⟩ := eotUnderTheOtherPolicies c _ hst
  refine ⟨u, b.fmtLong || (decide (b.fmtSeg.toNat < 4) && decide (7 < b.segSyms)), hu, ?_⟩
  intro wide status
  have hstatus : (if b.fmtSpace then some 2#3 else if b.fmtSeg.toNat < 3 then some 2#3
      else if b.decBad then some 3#3 else some (if wide then 5#3 else 0#3)) = some status := by
    simp only [status, apply_ite some]
  exact ⟨herror status hstatus, fun h => hok (hstatus.trans (congrArg some h))⟩

end Sys2Proof.Machine
end

section
/-! `FROMBG` on whole texts (42_group_formatter.md R161, R172, R180, R181, R184, R185): the range check
by policy, the round trip of a UUID, and what follows the fourth segment. -/

namespace Sys2Proof.Machine

open Sys2Proof.Claims

/-! ## The groups -/

/-- Settles O50: each digit of a group is one of the UUID's, and the groups join to it. -/
theorem groupsAreEightHexDigits : Obligations.GroupsAreEightHexDigits :=
  fun u => ⟨fun _ _ => extract_group_eq_hexDigit u, joinGroups_group u⟩

/-! ## The range check (R172, R184) -/

/-- The response of an accepted text (42_group_formatter.md R179). -/
def Answer.okUuid (u : BitVec 128) : Answer := { Answer.okText (uuidText u) with uuid := some u }

/-- A text that passes steps 1 to 3 of R172 comes to its range check. -/
theorem fromBgAnswer_of_acc (p : RangePolicy) {t s0 s1 s2 s3 : Text} {rest : List Text}
    {a0 a1 a2 a3 : BitVec 64} (hspace : spaceChar ∉ t)
    (hs : segments t = s0 :: s1 :: s2 :: s3 :: rest)
    (h0 : dec s0 = .acc a0) (h1 : dec s1 = .acc a1) (h2 : dec s2 = .acc a2)
    (h3 : dec s3 = .acc a3) :
    fromBgAnswer p t = reassemble p [s0, s1, s2, s3] a0 a1 a2 a3 := by
  simp only [fromBgAnswer, if_neg hspace, hs, h0, h1, h2, h3]

theorem isWide_eq_false_iff (a : BitVec 64) : isWide a = false ↔ a.toNat < 2 ^ 32 := by
  rw [← Bool.not_eq_true, isWide_iff, Nat.not_le]

section
variable (segs : List Text) (a0 a1 a2 a3 : BitVec 64)

/-- The low halves of the accumulators are the groups of the value (42_group_formatter.md R179). -/
def lowHalves : BitVec 128 :=
  joinGroups (a0.extractLsb' 0 32) (a1.extractLsb' 0 32) (a2.extractLsb' 0 32)
    (a3.extractLsb' 0 32)

/-- Some accumulator is wide. -/
def someWide : Bool := isWide a0 || isWide a1 || isWide a2 || isWide a3

/-- Some segment has more than 7 characters. -/
def someLong : Bool := segs.any fun s => decide (7 < s.length)

theorem reassemble_eq (p : RangePolicy) : reassemble p segs a0 a1 a2 a3 =
    (rangeStatus p (someWide a0 a1 a2 a3) (someLong segs)).map fun status =>
      if status = .ok then .okUuid (lowHalves a0 a1 a2 a3) else .raise status := rfl

theorem someWide_eq_false_iff : someWide a0 a1 a2 a3 = false ↔
    a0.toNat < 2 ^ 32 ∧ a1.toNat < 2 ^ 32 ∧ a2.toNat < 2 ^ 32 ∧ a3.toNat < 2 ^ 32 := by
  simp only [someWide, Bool.or_eq_false_iff, isWide_eq_false_iff, and_assoc]

theorem someLong_eq_false_iff : someLong segs = false ↔ ∀ s ∈ segs, s.length ≤ 7 := by
  simp [someLong]

/-- `LEN7` looks at the lengths only. -/
theorem reassemble_len7 : reassemble .len7 segs a0 a1 a2 a3 =
    some (if someLong segs = false then .okUuid (lowHalves a0 a1 a2 a3)
      else .raise .valueOutOfRange) := by
  rw [reassemble_eq]
  cases someLong segs <;> rfl

/-- `REFUSE` looks at the accumulators only. -/
theorem reassemble_refuse : reassemble .refuse segs a0 a1 a2 a3 =
    if someWide a0 a1 a2 a3 = false then some (.okUuid (lowHalves a0 a1 a2 a3)) else none := by
  rw [reassemble_eq]
  cases someWide a0 a1 a2 a3 <;> rfl

/-- With no wide accumulator and no long segment the policies agree. -/
theorem reassemble_of_fits (p : RangePolicy) (hwide : someWide a0 a1 a2 a3 = false)
    (hlong : someLong segs = false) :
    reassemble p segs a0 a1 a2 a3 = some (.okUuid (lowHalves a0 a1 a2 a3)) := by
  rw [reassemble_eq, hwide, hlong]
  cases p <;> rfl

end

/-- Settles O23: the text comes to its range check, which each policy decides in its own way. -/
theorem otherPoliciesOfFrombg : Obligations.OtherPoliciesOfFrombg := by
  intro t s0 s1 s2 s3 rest a0 a1 a2 a3 hspace hs h0 h1 h2 h3 u good
  have hcheck := fun p => fromBgAnswer_of_acc p hspace hs h0 h1 h2 h3
  rw [hcheck, hcheck, reassemble_len7, reassemble_refuse]
  simp only [List.forall_mem_cons, List.not_mem_nil, false_imp_iff, implies_true, and_true,
    someWide_eq_false_iff, someLong_eq_false_iff]
  exact ⟨rfl, rfl⟩

/-! ## The round trip (R180, R181) -/

theorem spaceChar_not_mem_tobgText (u : BitVec 128) : spaceChar ∉ tobgText u := by
  intro hmem
  obtain ⟨-, -, hchars, -⟩ := tobgTextShape u
  exact absurd (hchars _ hmem) (by decide)

theorem extractLsb'_zeroExtend (v : BitVec 32) : (v.zeroExtend 64).extractLsb' 0 32 = v := by
  simp [← BitVec.setWidth_eq_extractLsb']

theorem zeroExtend_toNat_lt (v : BitVec 32) : (v.zeroExtend 64).toNat < 2 ^ 32 := by
  bv_omega

/-- `FROMBG` of the text of `TOBG`: each group comes back from its segment. -/
theorem fromBgAnswer_tobgText (p : RangePolicy) (u : BitVec 128) :
    fromBgAnswer p (tobgText u) = some (.okUuid u) := by
  have hlow : lowHalves ((group u 0).zeroExtend 64) ((group u 1).zeroExtend 64)
      ((group u 2).zeroExtend 64) ((group u 3).zeroExtend 64) = u := by
    simp only [lowHalves, extractLsb'_zeroExtend, joinGroups_group]
  rw [fromBgAnswer_of_acc p (spaceChar_not_mem_tobgText u) (segments_tobgText u) (dec_enc32 _)
    (dec_enc32 _) (dec_enc32 _) (dec_enc32 _), reassemble_of_fits, hlow]
  · simp only [someWide_eq_false_iff, zeroExtend_toNat_lt, and_self]
  · simp [someLong_eq_false_iff, enc32_length]

/-- Settles O53: `FROMBG` reads back each group that `TOBG` encoded. -/
theorem roundTripOfUuids : Obligations.RoundTripOfUuids := fromBgAnswer_tobgText

/-- Settles O54: `FROMBG` reads the UUID off its text. -/
theorem tobgIsInjective : Obligations.TobgIsInjective := by
  intro u v hne htext
  have huuid : Answer.okUuid u = Answer.okUuid v := by
    simpa [fromBgAnswer_tobgText] using congrArg (fromBgAnswer .mag32) htext
  exact hne (Option.some.inj (congrArg Answer.uuid huuid))

/-! ## After the fourth segment (R185) -/

theorem segments_append (t x : Text) :
    segments (t ++ hyphenChar :: x) = segments t ++ segments x := by
  induction t with
  | nil => rfl
  | cons c cs ih =>
    by_cases hc : c = hyphenChar
    · simp [segments, hc, ih]
    · obtain ⟨g, gs, hs⟩ : ∃ g gs, segments cs = g :: gs :=
        List.exists_cons_of_length_pos (by rw [segments_length]; omega)
      simp [segments, hc, ih, hs]

theorem exists_four_segments {t : Text} (h : 3 ≤ t.count hyphenChar) :
    ∃ s0 s1 s2 s3 rest, segments t = s0 :: s1 :: s2 :: s3 :: rest := by
  have hlen : 4 ≤ (segments t).length := by rw [segments_length]; omega
  match hs : segments t with
  | [] | [_] | [_, _] | [_, _, _] => simp [hs] at hlen
  | s0 :: s1 :: s2 :: s3 :: rest => exact ⟨s0, s1, s2, s3, rest, rfl⟩

/-- Settles O57: what is appended holds the later segments, of which only a space counts. -/
theorem trailingSegmentsAreIgnored : Obligations.TrailingSegmentsAreIgnored := by
  intro p t x hcount
  have hmem : spaceChar ∈ t ++ hyphenChar :: x ↔ spaceChar ∈ t ∨ spaceChar ∈ x := by
    simp +decide
  constructor
  · intro hx
    obtain ⟨s0, s1, s2, s3, rest, hs⟩ := exists_four_segments hcount
    simp only [fromBgAnswer, hmem, hx, or_false, segments_append, hs, List.cons_append]
  · intro hx
    rw [fromBgAnswer, if_pos (hmem.mpr (.inr hx))]

end Sys2Proof.Machine
end

section
/-! The status of a delivered response (60_exceptions.md R200, R201, R209). -/

namespace Sys2Proof.Machine

/-- No operation can give code 1 or code 7 as its status. -/
theorem Block.answered.rStatus_ne {b : Block} (h : b.answered) :
    b.rStatus ≠ 1#3 ∧ b.rStatus ≠ 7#3 := by
  obtain ⟨hs, -⟩ | ⟨-, ⟨hs, -⟩ | ⟨hs, -⟩ | ⟨hs, -⟩ | ⟨hs, -⟩ | ⟨hs, -⟩⟩ := h
  all_goals rw [hs]; decide

/-- Settles O41: only `respond` delivers a response, that of an answered command. -/
theorem invalidLengthIsNeverProduced : Obligations.InvalidLengthIsNeverProduced := by
  rintro s t ⟨-, -, -, hrsp, -⟩ hstep r hr
  cases step_cases hstep with
  | respond _ hst =>
    obtain hold | rfl : r ∈ s.host.responses ∨ r = s.blk.response := by simpa using hr
    · exact .inl hold
    · exact .inr (hrsp hst).rStatus_ne
  | reset | accept | rest | encode | beat | waitBeat | waitRsp | send | finish | waitTxt =>
    exact .inl hr

end Sys2Proof.Machine
end

section
/-! Which of several faults is reported (60_exceptions.md R210). -/

namespace Sys2Proof.Machine

open Sys2Proof.Claims

/-! ## The checks of `FROMBG`, in their order (42_group_formatter.md R172) -/

section
variable {p : RangePolicy} {t s0 s1 s2 s3 : Text} {rest : List Text} {c : Byte}

theorem fromBgAnswer_of_space (h : spaceChar ∈ t) :
    fromBgAnswer p t = some (.raise .invalidFormat) := if_pos h

/-- Three hyphens are needed for four segments. -/
theorem fromBgAnswer_of_count_lt (h : t.count hyphenChar < 3) :
    fromBgAnswer p t = some (.raise .invalidFormat) := by
  have hlen : (segments t).length < 4 := by rw [segments_length]; omega
  by_cases hspace : spaceChar ∈ t
  · exact fromBgAnswer_of_space hspace
  rw [fromBgAnswer, if_neg hspace]
  split
  case h_1 hs =>
    rw [hs] at hlen
    simp only [List.length_cons] at hlen
    omega
  case h_2 => rfl

/-- What was read before does not change where the decoder stops. -/
theorem dec_eq_bad_of_decFrom {a : BitVec 64} (h : decFrom a t = .bad c) : dec t = .bad c := by
  obtain ⟨front, back, rfl, hfront, hc⟩ := foreign_of_decFrom_bad h
  exact decFrom_of_foreign 0#64 hfront hc

/-- The decoder stops in the first of two texts, or it reads that one and stops in the second. -/
theorem decFrom_eq_bad_of_append {s u : Text} {a : BitVec 64} (h : decFrom a (s ++ u) = .bad c) :
    decFrom a s = .bad c ∨ (∃ a', decFrom a s = .acc a') ∧ dec u = .bad c := by
  induction s generalizing a with
  | nil => exact .inr ⟨⟨a, rfl⟩, dec_eq_bad_of_decFrom h⟩
  | cons x xs ih =>
    rw [List.cons_append, decFrom] at h
    rw [decFrom]
    cases hx : rev x with
    | none => exact .inl (by simpa only [hx] using h)
    | some i => exact ih (by simpa only [hx] using h)

theorem dec_eq_bad_of_append {s u : Text} (h : dec (s ++ u) = .bad c) :
    dec s = .bad c ∨ (∃ a, dec s = .acc a) ∧ dec u = .bad c := decFrom_eq_bad_of_append h

theorem checkedChars_eq (hs : segments t = s0 :: s1 :: s2 :: s3 :: rest) :
    checkedChars t = s0 ++ (s1 ++ (s2 ++ s3)) := by
  simp [checkedChars, hs]

/-- The segments are decoded in turn, so the first foreign character of all four is reported. -/
theorem fromBgAnswer_of_bad (hspace : spaceChar ∉ t) (hcount : 3 ≤ t.count hyphenChar)
    (hbad : dec (checkedChars t) = .bad c) : fromBgAnswer p t = some (.raiseChar c) := by
  obtain ⟨s0, s1, s2, s3, rest, hs⟩ := exists_four_segments hcount
  rw [checkedChars_eq hs] at hbad
  simp only [fromBgAnswer, if_neg hspace, hs]
  obtain h0 | ⟨⟨a0, h0⟩, hbad⟩ := dec_eq_bad_of_append hbad
  · simp only [h0]
  obtain h1 | ⟨⟨a1, h1⟩, hbad⟩ := dec_eq_bad_of_append hbad
  · simp only [h0, h1]
  obtain h2 | ⟨⟨a2, h2⟩, h3⟩ := dec_eq_bad_of_append hbad
  · simp only [h0, h1, h2]
  · simp only [h0, h1, h2, h3]

/-- `MAG32` looks at the accumulators only. -/
theorem reassemble_mag32 (segs : List Text) (a0 a1 a2 a3 : BitVec 64) :
    reassemble .mag32 segs a0 a1 a2 a3 =
      some (if someWide a0 a1 a2 a3 = false then .okUuid (lowHalves a0 a1 a2 a3)
        else .raise .valueOutOfRange) := by
  rw [reassemble_eq]
  cases someWide a0 a1 a2 a3 <;> rfl

/-- A text of symbols is answered `OK` or `ValueOutOfRange`. -/
theorem fromBgAnswer_mag32_of_symbols (hspace : spaceChar ∉ t) (hcount : 3 ≤ t.count hyphenChar)
    (hsym : ∀ x ∈ checkedChars t, charClass x = .sym) :
    AnswersOk (fromBgAnswer .mag32 t) ∨
      fromBgAnswer .mag32 t = some (.raise .valueOutOfRange) := by
  obtain ⟨s0, s1, s2, s3, rest, hs⟩ := exists_four_segments hcount
  simp only [checkedChars_eq hs, List.forall_mem_append, ← dec_eq_acc_iff] at hsym
  obtain ⟨⟨a0, h0⟩, ⟨a1, h1⟩, ⟨a2, h2⟩, ⟨a3, h3⟩⟩ := hsym
  rw [fromBgAnswer_of_acc .mag32 hspace hs h0 h1 h2 h3, reassemble_mag32]
  split
  · exact .inl ((answersOk_some _).mpr rfl)
  · exact .inr rfl

end

/-! ## Encodings without a meaning (30_encoding.md R78) -/

/-- The reserved operation codes are those of no operation. -/
theorem not_operation_of_reserved : ∀ op ∈ [0#3, 5#3, 6#3, 7#3],
    ¬ (op = opDec32 ∨ op = opFrombg) ∧ op ≠ opEnc32 ∧ op ≠ opTobg := by
  decide

/-- The operations that take no text take no absent text. -/
theorem not_textOperation : ∀ op : BitVec 3, op = opEnc32 ∨ op = opTobg →
    ¬ (op = opDec32 ∨ op = opFrombg) := by
  decide

/-- A reserved encoding is answered `IllegalCommand` (60_exceptions.md R207). -/
theorem answerTo_of_reserved {p : RangePolicy} {w : CmdWord} {t : Text}
    (h : cmdOp w ∈ [0#3, 5#3, 6#3, 7#3] ∨
      cmdNull w = 1#1 ∧ (cmdOp w = opEnc32 ∨ cmdOp w = opTobg)) :
    answerTo p w t = some (.raise .illegalCommand) := by
  obtain hop | ⟨hnull, hop⟩ := h
  · obtain ⟨htext, hvalue⟩ := not_operation_of_reserved _ hop
    exact answerTo_of_illegal htext fun _ => hvalue
  · exact answerTo_of_illegal (not_textOperation _ hop) fun h => by simp [hnull] at h

/-- Settles O56: a check is reached when the checks before it pass. A wide accumulator leaves
`ValueOutOfRange`, since no such text is answered `OK` (30_encoding.md R82). -/
theorem statusPriority : Obligations.StatusPriority := by
  refine ⟨fun p w t => ⟨fun hnull hop => ?_, answerTo_of_reserved⟩, fun t =>
    ⟨fromBgAnswer_of_space, fromBgAnswer_of_count_lt, ?_, ?_⟩, fun t c h => ?_⟩
  · exact answerTo_of_null hop (by rw [hnull]; decide)
  · intro hspace hcount front c back hsplit hfront hc
    have hbad : dec (checkedChars t) = .bad c := by
      rw [hsplit]; exact decFrom_of_foreign 0#64 hfront hc
    exact fromBgAnswer_of_bad hspace hcount hbad
  · rintro hspace hcount hsym ⟨g, hg, a, ha, hwide⟩
    obtain hok | hrange := fromBgAnswer_mag32_of_symbols hspace hcount hsym
    · obtain ⟨-, -, -, hfits⟩ := (textsAcceptedByFrombg t).mp hok
      exact absurd (hfits g hg a ha) hwide.not_gt
    · exact hrange
  · rw [decAnswer, h]

end Sys2Proof.Machine
end

section
/-! The sequencer state after a step (70_reset_and_hazards.md R253): what each operation of the step
leaves in `st`, and the transition summary put together from these. -/

namespace Sys2Proof.Machine

open Sys2Proof.Claims

/-- Every command word is one of these: a value to encode, a text to read, the absent text, or an
encoding without a meaning (30_encoding.md R71, R72, R78). -/
theorem command_cases (w : CmdWord) :
    (cmdOp w = opEnc32 ∧ cmdNull w = 0#1) ∨ (cmdOp w = opTobg ∧ cmdNull w = 0#1) ∨
    (cmdOp w = opDec32 ∧ cmdNull w = 0#1) ∨ (cmdOp w = opFrombg ∧ cmdNull w = 0#1) ∨
    ((cmdOp w = opDec32 ∨ cmdOp w = opFrombg) ∧ cmdNull w ≠ 0#1) ∨
    (¬ (cmdOp w = opDec32 ∨ cmdOp w = opFrombg) ∧
      (cmdNull w = 0#1 → cmdOp w ≠ opEnc32 ∧ cmdOp w ≠ opTobg)) := by
  generalize cmdOp w = op, cmdNull w = null
  revert op null
  decide

/-- The state that the accepting step enters (R245). -/
theorem accepted_st (w : CmdWord) (b : Block) : (accepted w b).st =
    if cmdNull w = 0#1 ∧ (cmdOp w = opEnc32 ∨ cmdOp w = opTobg) then .encIter
    else if cmdNull w = 0#1 ∧ cmdOp w = opDec32 then .decText
    else if cmdNull w = 0#1 ∧ cmdOp w = opFrombg then .fromBgText
    else .rsp := by
  obtain ⟨hop, hnull⟩ | ⟨hop, hnull⟩ | ⟨hop, hnull⟩ | ⟨hop, hnull⟩ | ⟨hop, hnull⟩ | ⟨htext, hop⟩ :=
    command_cases w
  · simp [accepted_of_enc32 hop hnull, hop, hnull]
  · simp [accepted_of_tobg hop hnull, hop, hnull]
  · simp +decide [accepted_of_dec32 hop hnull, hop, hnull]
  · simp +decide [accepted_of_frombg hop hnull, hop, hnull]
  · simp [accepted_of_null hop hnull, hnull]
  · rw [accepted_of_illegal htext hop, if_neg fun h => not_or.mpr (hop h.1) h.2,
      if_neg fun h => htext (.inl h.2), if_neg fun h => htext (.inr h.2), Block.answer_st]

/-- The encoder goes on until the last digit of the last value (R247). -/
theorem Block.encIter_st {b t : Block} (hst : b.st = .encIter) (h : b.encIter = some t) :
    t.st =
      if b.encSh >>> 5 = 0#32 ∧ (b.opR = opEnc32 ∨ b.fmtSeg = 3#3) then .rsp else .encIter := by
  obtain ⟨hmore, rfl⟩ | ⟨hlast, hdone, rfl⟩ | ⟨-, hnext, -, rfl⟩ := Block.encIter_cases h
  · simpa [hmore] using hst
  · rw [if_pos ⟨hlast, (Block.lastValue_iff b.encDigit).mp hdone⟩, Block.answer_st]
  · have hnot : ¬ (b.opR = opEnc32 ∨ b.fmtSeg = 3#3) := fun h => by
      simp [(Block.lastValue_iff b.encDigit).mpr h] at hnext
    simpa [hnot] using hst

/-- The text channel is ready in the text states (10_state.md R23). -/
theorem Block.tinReady_iff {b : Block} :
    b.tinReady = true ↔ b.st = .decText ∨ b.st = .fromBgText := by
  simp [Block.tinReady]

theorem Block.endFromBgText_st {p : RangePolicy} {b t : Block} (h : b.endFromBgText p = some t) :
    t.st = .rsp := by
  obtain ⟨-, rfl⟩ | ⟨e, -, -, rfl⟩ := Block.endFromBgText_cases h <;> rfl

/-- A text state is left at the EOT beat (R248, R249, R258). -/
theorem afterBeat_st {p : RangePolicy} {w : BeatWord} {b t : Block}
    (hst : b.st = .decText ∨ b.st = .fromBgText) (h : afterBeat p w b = some t) :
    t.st = if beatEot w = 1#1 then .rsp else b.st := by
  obtain hst | hst := hst
  · rw [afterBeat_of_decText hst] at h
    cases h
    split_ifs
    · exact b.endDecText_st
    · exact (b.lookUp_frame _).1
  · rw [afterBeat_of_fromBgText hst] at h
    split_ifs at h ⊢
    · exact Block.endFromBgText_st h
    · cases h
      exact (fromBgChar_flags _ b).1

/-- Settles O34: in each case of a step, `st` is what the operation of that case leaves in it. -/
theorem transitionsFollowTheSummary : Obligations.TransitionsFollowTheSummary := by
  intro s t hstep
  unfold nextSeqState
  cases step_cases hstep with
  | reset cs bs ms hm => simp [HostSide.rst, hm]
  | accept w hr hst hw => simp [hr, hst, hw, accepted_st]
  | rest hr hst hw => simp [hr, hst, hw]
  | encode b hr hst hb => simpa [hr, hst] using Block.encIter_st hst hb
  | beat w b hr hst hw hb =>
    have hafter := afterBeat_st hst hb
    obtain hst | hst := hst <;> simpa [hr, hst, hw] using hafter
  | waitBeat hr hst hw => obtain hst | hst := hst <;> simp [hr, hst, hw]
  | respond hr hst hw => simp [hr, hst, hw]
  | waitRsp hr hst hw => simp [hr, hst, hw]
  | waitTxt hr hst hw => simp [hr, hst, hw]
  | send c hr hst hw hlt =>
    have hne : s.blk.outPos ≠ s.blk.outLen := fun h => by simp [h] at hlt
    simp [hr, hst, hne]
  | finish hr hst hw heq => simp [hr, hst, hw, heq]

end Sys2Proof.Machine
end

section
/-! A host that keeps its duties is never refused (70_reset_and_hazards.md R255 to R258): it has as
many whole texts to send as there are commands to take them, and each step keeps the two in
balance. -/

namespace Sys2Proof.Machine

open Sys2Proof.Claims

/-! ## Whole texts -/

theorem textCommands_cons (w : CmdWord) (cmds : List CmdWord) :
    textCommands (w :: cmds) = textCommands cmds + if takesText w then 1 else 0 :=
  List.countP_cons

theorem textEnds_cons (w : BeatWord) (beats : List BeatWord) :
    textEnds (w :: beats) = textEnds beats + if beatEot w = 1#1 then 1 else 0 := by
  simp [textEnds, List.countP_cons]

/-- Without the first beat, a text less is ended if that was an EOT beat. -/
theorem wholeTexts_tail {n : Nat} {w : BeatWord} {beats : List BeatWord}
    (h : wholeTexts (n + 1) (w :: beats)) :
    wholeTexts (n + if beatEot w = 1#1 then 0 else 1) beats := by
  obtain ⟨hends, hlast⟩ := h
  rw [textEnds_cons] at hends
  refine ⟨by split_ifs at hends ⊢ <;> omega, fun v hv => hlast v ?_⟩
  rw [List.getLast?_cons, Option.mem_def.mp hv]; rfl

/-- Beats that are whole texts end at least one. -/
theorem eq_nil_of_wholeTexts_zero {beats : List BeatWord} (h : wholeTexts 0 beats) :
    beats = [] := by
  obtain ⟨hends, hlast⟩ := h
  by_contra hne
  have hmem := List.getLast?_eq_some_getLast hne
  have hnone := List.countP_eq_zero.mp hends _ (List.getLast_mem hne)
  simp [hlast _ hmem] at hnone

theorem textCommands_ne_zero {cmds : List CmdWord} (h : textCommands cmds ≠ 0) :
    ∃ w ∈ cmds, takesText w = true :=
  List.countP_pos_iff.mp (Nat.pos_of_ne_zero h)

/-! ## A dutiful step is not refused -/

/-- What a dutiful host has on offer belongs to the text being consumed or to a command to come. -/
theorem State.dutiful.not_stray {s : State} (h : s.dutiful) : s.strayText = false := by
  obtain ⟨hwhole, -⟩ := h
  cases hready : s.blk.tinReady with
  | true => exact not_stray_of_tinReady hready
  | false =>
    rw [hready, if_neg (by decide), Nat.add_zero] at hwhole
    by_cases hcmds : textCommands s.host.cmdQ = 0
    · have hempty := eq_nil_of_wholeTexts_zero (hcmds ▸ hwhole)
      exact not_stray_of_silent (by simp [HostSide.tinValid, hempty])
    · obtain ⟨w, hm, hw⟩ := textCommands_ne_zero hcmds
      exact not_stray_of_textCommand hm hw

/-- Only the parameter `REFUSE` leaves a beat without a meaning (42_group_formatter.md R184). -/
theorem afterBeat_isSome {p : RangePolicy} (hp : p ≠ .refuse) (w : BeatWord) (b : Block) :
    (afterBeat p w b).isSome = true := by
  unfold afterBeat
  split_ifs
  · rfl
  · rfl
  · obtain ⟨e, he⟩ := Option.isSome_iff_exists.mp (fromBgStatus_isSome hp b.commitLast)
    by_cases hok : e = .ok
    · rw [Block.endFromBgText_of_ok (hok ▸ he)]; rfl
    · rw [Block.endFromBgText_of_error he hok]; rfl
  · rfl

theorem textEdge_refused {s : State} {e : Refusal}
    (hst : s.blk.st = .decText ∨ s.blk.st = .fromBgText) (h : textEdge s = .refused e) :
    e = .wideSegment ∧ s.policy = .refuse := by
  unfold textEdge at h
  split at h
  · rename_i w _
    rw [decode, exec_decodeBeat_eq_withBlkOr (by exact hst)] at h
    cases hb : afterBeat s.policy w s.blk with
    | some b => rw [hb] at h; cases h
    | none =>
      rw [hb] at h
      cases h
      refine ⟨rfl, by_contra fun hp => ?_⟩
      simpa [hb] using afterBeat_isSome hp w s.blk
  · cases h

/-- An edge without stray text is refused under `REFUSE` only, at an EOT beat. -/
theorem clockEdge_refused {s : State} {e : Refusal} (h : clockEdge s = .refused e) :
    e = .wideSegment ∧ s.policy = .refuse := by
  unfold clockEdge at h
  split at h <;> rename_i hst
  · unfold idleEdge at h
    split at h
    · rw [decode, exec_decodeCmd, whenIdle_eq] at h; cases h
    · cases h
  · unfold encIter at h
    split at h <;> cases h
  · exact textEdge_refused (.inl hst) h
  · exact textEdge_refused (.inr hst) h
  · unfold rspEdge at h
    split at h <;> cases h
  · unfold txtEdge at h
    split at h
    · split at h
      · split at h <;> cases h
      · split at h <;> cases h
    · cases h

theorem step_ne_refused {s : State} (hd : s.dutiful) (hp : s.policy ≠ .refuse) (e : Refusal) :
    step s ≠ .refused e := by
  cases hr : s.host.rst with
  | true =>
    obtain ⟨cs, bs, ms, hm⟩ := moves_of_rst hr
    rw [step_of_reset hm]; nofun
  | false =>
    rw [step_of_rst hr, hd.not_stray, if_neg (by decide)]
    intro h
    obtain ⟨-, hrefuse⟩ := clockEdge_refused h
    exact hp hrefuse

/-! ## A step keeps the duties -/

/-- The port of a channel shows the head of its queue. -/
theorem HostSide.cmdQ_of_cmdPort {h : HostSide} {w : CmdWord} (hw : h.cmdPort = some w) :
    h.cmdQ = w :: h.cmdQ.tail := by
  unfold HostSide.cmdPort at hw
  split_ifs at hw
  exact (List.cons_head?_tail hw).symm

theorem HostSide.tinQ_of_tinPort {h : HostSide} {w : BeatWord} (hw : h.tinPort = some w) :
    h.tinQ = w :: h.tinQ.tail := by
  unfold HostSide.tinPort at hw
  split_ifs at hw
  exact (List.cons_head?_tail hw).symm

/-- The accepting step leads to a text state exactly for a command that has a text (R258). -/
theorem accepted_tinReady (w : CmdWord) (b : Block) : (accepted w b).tinReady = takesText w := by
  rw [Block.tinReady, accepted_st, takesText]
  generalize cmdOp w = op, cmdNull w = null
  revert op null
  decide

/-- The encoder leads to no text state. -/
theorem Block.encIter_tinReady {b t : Block} (hst : b.st = .encIter) (h : b.encIter = some t) :
    t.tinReady = false := by
  rw [Block.tinReady, Block.encIter_st hst h]
  split_ifs <;> rfl

/-- A text state is ready until its EOT beat. -/
theorem afterBeat_tinReady {p : RangePolicy} {w : BeatWord} {b t : Block}
    (hst : b.st = .decText ∨ b.st = .fromBgText) (h : afterBeat p w b = some t) :
    t.tinReady = !decide (beatEot w = 1#1) := by
  rw [Block.tinReady, afterBeat_st hst h]
  obtain hst | hst := hst <;> rw [hst] <;> split_ifs with he <;> simp [he]

/-- Taking a word of a channel takes the same from both sides of the balance, and a reset is given
whole texts to start with. -/
theorem State.dutiful.step {s t : State} (h : s.dutiful) (hstep : Machine.step s = .next t) :
    t.dutiful := by
  obtain ⟨hwhole, hmoves⟩ := h
  have htail : s.host.moves.tail.all HostMove.dutiful = true :=
    List.all_eq_true.mpr fun m hm => List.all_eq_true.mp hmoves m (List.mem_of_mem_tail hm)
  cases step_cases hstep with
  | reset cs bs ms hm =>
    rw [hm, List.all_cons, Bool.and_eq_true] at hmoves
    exact ⟨of_decide_eq_true hmoves.1, htail⟩
  | accept w hr hst hw =>
    refine ⟨?_, htail⟩
    have hready : s.blk.tinReady = false := by simp [Block.tinReady, hst]
    rw [HostSide.cmdQ_of_cmdPort hw, textCommands_cons] at hwhole
    simpa [accepted_tinReady, hready] using hwhole
  | encode b hr hst hb =>
    refine ⟨?_, htail⟩
    have hready : s.blk.tinReady = false := by simp [Block.tinReady, hst]
    simpa [Block.encIter_tinReady hst hb, hready] using hwhole
  | beat w b hr hst hw hb =>
    refine ⟨?_, htail⟩
    rw [Block.tinReady_iff.mpr hst, if_pos rfl, HostSide.tinQ_of_tinPort hw] at hwhole
    have hrest := wholeTexts_tail hwhole
    simpa [afterBeat_tinReady hst hb] using hrest
  | respond hr hst | finish hr hst =>
    exact ⟨by simpa [Block.tinReady, hst] using hwhole, htail⟩
  | rest | waitBeat | waitRsp | send | waitTxt => exact ⟨hwhole, htail⟩

/-- Settles O40: the step neither faults nor is refused, and it keeps the duties. -/
theorem dutifulRunsGoOn : Obligations.DutifulRunsGoOn := by
  intro s hinv hd hp
  cases hstep : step s with
  | next t =>
    obtain ⟨hpolicy, -⟩ := receivedBeatsStay s t hstep
    exact ⟨t, rfl, hd.step hstep, hpolicy⟩
  | fault f => exact absurd hstep (invariantStatesNeverFault s f hinv)
  | refused e => exact absurd hstep (step_ne_refused hd hp e)

end Sys2Proof.Machine
end

section
/-! The steps of the sequencer, state by state (70_reset_and_hazards.md R245, R246, R250, R251), and
how a step runs an instruction (R240). -/

namespace Sys2Proof.Machine

open Sys2Proof.Claims

/-- An edge of a host that keeps duty H3 is the sequencer's. -/
theorem step_of_owned {s : State} (hr : s.host.rst = false) (ho : Owned s) :
    step s = clockEdge s := by
  rw [step_of_rst hr, (strayText_eq_false_iff_owned s).mpr ho, if_neg Bool.false_ne_true]

theorem owned_of_text {s : State} (hst : s.blk.st = .decText ∨ s.blk.st = .fromBgText) : Owned s :=
  .inr (hst.imp_right .inl)

/-! ## A step runs the decoded instruction -/

theorem step_of_cmdPort {s : State} {w : CmdWord} (hr : s.host.rst = false) (ho : Owned s)
    (hst : s.blk.st = .idle) (hw : s.host.cmdPort = some w) :
    step s = exec (decode (.cmd w)) { s with host := passedCmd s.host } := by
  rw [step_of_owned hr ho, clockEdge_of_idle hst, idleEdge, hw]
  rfl

theorem step_of_tinPort {s : State} {w : BeatWord} (hr : s.host.rst = false)
    (hst : s.blk.st = .decText ∨ s.blk.st = .fromBgText) (hw : s.host.tinPort = some w) :
    step s = exec (decode (.beat w)) { s with host := passedTin s.host } := by
  rw [step_of_owned hr (owned_of_text hst), clockEdge_of_text hst, textEdge, hw]
  rfl

/-- Settles O27: the edge of a ready channel with a word on its port. -/
theorem stepRunsTheDecodedInstruction : Obligations.StepRunsTheDecodedInstruction := by
  rintro s i hr
  refine ⟨fun w ho hst hw hi => ?_, fun w hst hw hi => ?_⟩ <;> subst hi
  · exact step_of_cmdPort hr ho hst hw
  · exact step_of_tinPort hr hst hw

/-! ## The accepting step -/

/-- The table of R245 is what the command words do. -/
theorem accepted_eq_acceptedBy (w : CmdWord) (b : Block) :
    accepted w b = acceptedBy w (cleared (cmdOp w) 0 false b) := by
  simp only [accepted, acceptedBy]
  split_ifs with henc htobg hdec hfrom htext hnull hnull
  · rfl
  · rfl
  · rfl
  · rfl
  · rfl
  · have hone : cmdNull w = 1#1 :=
      eq_one_of_ne_zero fun h0 => htext.elim (hdec ⟨·, h0⟩) (hfrom ⟨·, h0⟩)
    exact absurd ⟨htext, hone⟩ hnull
  · exact absurd hnull.1 htext
  · rfl

/-- Settles O7: a command word is accepted as the table says, in the state that has given it up. -/
theorem acceptingStepFollowsTheTable : Obligations.AcceptingStepFollowsTheTable := by
  intro s w hr ho hst hw
  refine ⟨0, false, ?_⟩
  rw [step_of_cmdPort hr ho hst hw, decode, exec_decodeCmd, whenIdle_of_idle (by exact hst),
    ← accepted_eq_acceptedBy]

/-- Settles O8: both rows act in `IDLE`, by the writes of `beginCommand` and `loadEncoder`. -/
theorem encodingCommandsAreAccepted : Obligations.EncodingCommandsAreAccepted := by
  refine fun ig v u s hst => ⟨⟨0, false, ?_⟩, ⟨0, false, ?_⟩⟩
  · rw [exec, execEnc32, whenIdle_of_idle hst]; rfl
  · rw [exec, execTobg, whenIdle_of_idle hst]; rfl

/-- Settles O9: both rows act in `IDLE`, by the writes of `beginCommand`. -/
theorem textCommandsAreAccepted : Obligations.TextCommandsAreAccepted := by
  refine fun data s hst => ⟨⟨0, false, ?_⟩, ⟨0, false, ?_⟩⟩
  · rw [exec, execDec32, whenIdle_of_idle hst]; rfl
  · rw [exec, execFrombg, whenIdle_of_idle hst]; rfl

/-! ## Waiting in `IDLE` -/

theorem step_of_idle_rest {s : State} (hr : s.host.rst = false) (ho : Owned s)
    (hst : s.blk.st = .idle) (hw : s.host.cmdPort = none) :
    step s = .next { s with host := passed s.host } := by
  rw [step_of_owned hr ho, clockEdge_of_idle hst, idleEdge, hw]
  rfl

/-- Settles O29: the step tests for stray text before all else, and that is `¬ Owned`. -/
theorem idleRestsAndStrayTextIsRefused : Obligations.IdleRestsAndStrayTextIsRefused := by
  refine fun s hr => ⟨step_of_idle_rest hr, fun h ho => ?_, fun ho => ?_⟩
  · obtain ⟨hwide, -⟩ := clockEdge_refused ((step_of_owned hr ho).symm.trans h)
    cases hwide
  · have hstray := mt (strayText_eq_false_iff_owned s).mp ho
    rw [step_of_rst hr, if_pos (by simpa using hstray)]

/-- Settles O31: the host of `State.reset` has nothing on its ports, so the step is a rest. -/
theorem afterResetTheBlockWaits : Obligations.AfterResetTheBlockWaits :=
  ⟨rfl, rfl, rfl, rfl, step_of_idle_rest rfl (.inl rfl) rfl rfl⟩

/-! ## The response and the result text -/

/-- Settles O32: the edge in `RSP`, by the level of `rsp_ready`. -/
theorem responseStep : Obligations.ResponseStep := by
  intro s hr ho hst
  rw [step_of_owned hr ho, clockEdge_of_rsp hst, rspEdge]
  refine ⟨fun hwait => ?_, fun hready => ?_⟩
  · rw [if_neg (by simp [hwait])]; rfl
  · rw [if_pos hready]; rfl

/-- Settles O33: the edge in `TXT`, by the level of `tout_ready` and the position. -/
theorem textOutputStep : Obligations.TextOutputStep := by
  intro s hr ho hst
  rw [step_of_owned hr ho, clockEdge_of_txt hst, txtEdge]
  refine ⟨fun hwait => ?_, fun hpos hready hlt => ?_, fun hready heq => ?_⟩
  · rw [if_neg (by simp [hwait])]; rfl
  · rw [if_pos hready, if_pos (BitVec.lt_def.mpr hlt), Vector.getElem?_eq_getElem hpos]; rfl
  · rw [if_pos hready, if_neg (by simp [heq]), if_pos heq]; rfl

end Sys2Proof.Machine
end

section
/-! The channels (70_reset_and_hazards.md R241, R243, R258): when a beat is taken, and that an offer
stays until it is. -/

namespace Sys2Proof.Machine

open Sys2Proof.Claims

/-! ## A word whose channel is not ready -/

/-- A command row is the one that some command word decodes to. -/
theorem eq_decodeCmd_of_isCommand {i : Instr} (h : IsCommand i) : ∃ w, i = decodeCmd w := by
  obtain ⟨w, hw⟩ := h
  have hwf : i.wellFormed = true := by
    cases i with
    | other c => cases hw
    | _ => rfl
  exact ⟨w, by rw [← decodeReadsBackEncode i hwf, hw, decode]⟩

/-- A beat row is the one that some beat decodes to, or names a character that has a row of its
own. -/
theorem eq_decodeBeat_of_isBeat {i : Instr} (h : IsBeat i) :
    (∃ w, i = decodeBeat w) ∨ ∃ c, i = .other c := by
  obtain ⟨w, hw⟩ := h
  cases hwf : i.wellFormed with
  | true => exact .inl ⟨w, by rw [← decodeReadsBackEncode i hwf, hw, decode]⟩
  | false =>
    cases i with
    | other c => exact .inr ⟨c, rfl⟩
    | _ => cases hwf

theorem exec_command_of_busy {i : Instr} {s : State} (hi : IsCommand i) (hst : s.blk.st ≠ .idle) :
    exec i s = .next s := by
  obtain ⟨w, rfl⟩ := eq_decodeCmd_of_isCommand hi
  rw [exec_decodeCmd, whenIdle_of_busy hst]

theorem execEot_of_not_ready {s : State} (h : s.blk.tinReady = false) (c : Byte) :
    execEot c s = .next s := by
  unfold execEot
  split <;> simp_all [Block.tinReady]

theorem exec_beat_of_not_ready {i : Instr} {s : State} (hi : IsBeat i)
    (h : s.blk.tinReady = false) : exec i s = .next s := by
  obtain ⟨w, rfl⟩ | ⟨c, rfl⟩ := eq_decodeBeat_of_isBeat hi
  · rw [exec_decodeBeat]
    split
    · exact execEot_of_not_ready h _
    · exact onText_of_not_ready h
  · exact onText_of_not_ready h

/-! ## When a beat is taken. No working state is left for `IDLE` or `TXT` but by way of `RSP`. -/

theorem accepted_st_ne (w : CmdWord) (b : Block) :
    (accepted w b).st ≠ .idle ∧ (accepted w b).st ≠ .txt := by
  rw [accepted_st]; split_ifs <;> decide

theorem Block.encIter_st_ne {b t : Block} (hst : b.st = .encIter) (h : b.encIter = some t) :
    t.st ≠ .idle ∧ t.st ≠ .txt := by
  rw [Block.encIter_st hst h]; split_ifs <;> decide

theorem afterBeat_st_ne {p : RangePolicy} {w : BeatWord} {b t : Block}
    (hst : b.st = .decText ∨ b.st = .fromBgText) (h : afterBeat p w b = some t) :
    t.st ≠ .idle ∧ t.st ≠ .txt := by
  rw [afterBeat_st hst h]
  split_ifs
  · decide
  · obtain hst | hst := hst <;> rw [hst] <;> decide

/-- Settles O12: of the cases of a step only `accept` takes a command, only `finish` comes back to
`IDLE` and only `respond` enters `TXT`. -/
theorem commandsNeverOverlap : Obligations.CommandsNeverOverlap := by
  refine ⟨fun i s => exec_command_of_busy, fun s t hr hstep => ?_⟩
  cases step_cases hstep with
  | reset cs bs ms hm => simp [HostSide.rst, hm] at hr
  | accept w hr hst hw =>
    obtain ⟨hidle, htxt⟩ := accepted_st_ne w s.blk
    exact ⟨fun _ => ⟨hst, hidle, w, HostSide.cmdQ_of_cmdPort hw⟩, fun h => absurd hst h,
      fun _ h => absurd h htxt⟩
  | encode b hr hst hb =>
    obtain ⟨hidle, htxt⟩ := Block.encIter_st_ne hst hb
    exact ⟨fun h => absurd rfl h, fun _ h => absurd h hidle, fun _ h => absurd h htxt⟩
  | beat w b hr hst hw hb =>
    obtain ⟨hidle, htxt⟩ := afterBeat_st_ne hst hb
    exact ⟨fun h => absurd rfl h, fun _ h => absurd h hidle, fun _ h => absurd h htxt⟩
  | respond hr hst => exact ⟨fun h => absurd rfl h, nofun, fun _ _ => ⟨hst, rfl⟩⟩
  | finish hr hst => exact ⟨fun h => absurd rfl h, fun _ _ => ⟨hst, rfl⟩, nofun⟩
  | rest | waitBeat | waitRsp | send | waitTxt =>
    exact ⟨fun h => absurd rfl h, fun h h' => absurd h' h, fun h h' => absurd h' h⟩

/-- Settles O13: of the cases of a step only `beat` takes a text beat. -/
theorem beatsAreTakenOnlyInTextStates : Obligations.BeatsAreTakenOnlyInTextStates := by
  refine ⟨fun i s hi hdec hfrom => ?_, fun s t hr hstep => ?_⟩
  · exact exec_beat_of_not_ready hi (by simp [Block.tinReady, hdec, hfrom])
  cases step_cases hstep with
  | reset cs bs ms hm => simp [HostSide.rst, hm] at hr
  | beat w b hr hst hw hb =>
    have hb' := afterBeat_st hst hb
    exact fun _ => ⟨hst, w, HostSide.tinQ_of_tinPort hw, fun he => by rw [hb', if_pos he],
      fun he => by rw [hb', if_neg (by simp [he])]⟩
  | accept | rest | encode | waitBeat | respond | waitRsp | send | finish | waitTxt =>
    exact fun h => absurd rfl h

/-! ## An offer stays -/

theorem HostSide.cmdValid_of_cmdPort {h : HostSide} {w : CmdWord} (hw : h.cmdPort = some w) :
    h.cmdValid = true := by
  unfold HostSide.cmdPort at hw
  split_ifs at hw with hv
  exact hv

theorem HostSide.tinValid_of_tinPort {h : HostSide} {w : BeatWord} (hw : h.tinPort = some w) :
    h.tinValid = true := by
  unfold HostSide.tinPort at hw
  split_ifs at hw with hv
  exact hv

/-- A command held on offer is on the port, whatever the host drives. -/
theorem HostSide.cmdPort_of_held {h k : HostSide} {w : CmdWord} (hw : h.cmdPort = some w)
    (hq : k.cmdQ = h.cmdQ) (hheld : k.cmdHeld = h.cmdValid) : k.cmdPort = some w := by
  have hv := HostSide.cmdValid_of_cmdPort hw
  have hcons := HostSide.cmdQ_of_cmdPort hw
  rw [HostSide.cmdPort, HostSide.cmdValid, hq, hheld, hv, hcons]; rfl

/-- A text beat held on offer is on the port, whatever the host drives. -/
theorem HostSide.tinPort_of_held {h k : HostSide} {w : BeatWord} (hw : h.tinPort = some w)
    (hq : k.tinQ = h.tinQ) (hheld : k.tinHeld = h.tinValid) : k.tinPort = some w := by
  have hv := HostSide.tinValid_of_tinPort hw
  have hcons := HostSide.tinQ_of_tinPort hw
  rw [HostSide.tinPort, HostSide.tinValid, hq, hheld, hv, hcons]; rfl

/-- The host's side of a step without reset: a channel that is not ready keeps its queue, and what
was on offer is held. -/
theorem step_holds_offers {s t : State} (hr : s.host.rst = false) (hstep : step s = .next t) :
    (s.blk.cmdReady = false → t.host.cmdQ = s.host.cmdQ ∧ t.host.cmdHeld = s.host.cmdValid) ∧
    (s.blk.tinReady = false → t.host.tinQ = s.host.tinQ ∧ t.host.tinHeld = s.host.tinValid) := by
  cases step_cases hstep with
  | reset cs bs ms hm => simp [HostSide.rst, hm] at hr
  | accept w hr hst => exact ⟨fun h => by simp [Block.cmdReady, hst] at h, fun _ => ⟨rfl, rfl⟩⟩
  | beat w b hr hst =>
    exact ⟨fun _ => ⟨rfl, rfl⟩, fun h => by simp [Block.tinReady_iff.mpr hst] at h⟩
  | rest | encode | waitBeat | respond | waitRsp | send | finish | waitTxt =>
    exact ⟨fun _ => ⟨rfl, rfl⟩, fun _ => ⟨rfl, rfl⟩⟩

/-- An output beat that the host is not ready for leaves the registers alone. -/
theorem step_blk_of_output_waits {s t : State} (hr : s.host.rst = false)
    (hstep : step s = .next t) (h : (s.blk.st = .rsp ∧ s.host.rspReady = false) ∨
      (s.blk.st = .txt ∧ s.host.toutReady = false)) : t.blk = s.blk := by
  cases step_cases hstep with
  | waitRsp | waitTxt | rest | waitBeat => rfl
  | reset cs bs ms hm => simp [HostSide.rst, hm] at hr
  | beat w b hr hst => obtain hst | hst := hst <;> simp [hst] at h
  | accept w hr hst | encode b hr hst => simp [hst] at h
  | respond hr hst hw => simp [hst, hw] at h
  | send c hr hst hw => simp [hst, hw] at h
  | finish hr hst hw => simp [hst, hw] at h

/-- Settles O35: an input offer is held by the host's side, and an output offer by the registers. -/
theorem offersAreHeld : Obligations.OffersAreHeld := by
  intro s t hr hstep
  obtain ⟨hcmd, htin⟩ := step_holds_offers hr hstep
  have hblk := step_blk_of_output_waits hr hstep
  refine ⟨fun w hw hready => ?_, fun w hw hready => ?_, fun hvalid hready => ?_,
    fun hvalid hready => ?_⟩
  · obtain ⟨hq, hheld⟩ := hcmd hready
    exact HostSide.cmdPort_of_held hw hq hheld
  · obtain ⟨hq, hheld⟩ := htin hready
    exact HostSide.tinPort_of_held hw hq hheld
  · rw [hblk (.inl ⟨by simpa [Block.rspValid] using hvalid, hready⟩)]
    exact ⟨hvalid, rfl⟩
  · rw [hblk (.inr ⟨by simpa [Block.toutValid] using hvalid, hready⟩)]
    exact ⟨hvalid, rfl, rfl⟩

end Sys2Proof.Machine
end

section
/-! The encoder needs nothing from the host (70_reset_and_hazards.md R247): each step uses up one of
the digits that the running value and the groups after it can still have. -/

namespace Sys2Proof.Machine

open Sys2Proof.Claims

/-- How many steps `ENC_ITER` can still take: seven digits for each group after this one, and what
is left of the seven digits of this value. -/
def Block.encStepsLeft (b : Block) : Nat :=
  7 * (if b.opR = opEnc32 then 0 else 3 - b.fmtSeg.toNat) + (7 - b.encLen.toNat)

theorem Block.encStepsLeft_le (b : Block) :
    b.encStepsLeft ≤ if b.opR = opEnc32 then 7 else 28 := by
  unfold Block.encStepsLeft
  split_ifs <;> omega

/-- Each step answers the command, or goes on with a step less to take. -/
theorem Block.encoding.encIter_progress {b t : Block} (hst : b.st = .encIter) (h : b.encoding)
    (ht : b.encIter = some t) :
    t.st = .rsp ∨ (t.st = .encIter ∧ t.encStepsLeft < b.encStepsLeft) := by
  obtain ⟨hlen, -⟩ := id h
  obtain ⟨-, rfl⟩ | ⟨-, -, rfl⟩ | ⟨-, hnext, hseg, rfl⟩ := Block.encIter_cases ht
  · have hstep : (b.encLen + 1#3).toNat = b.encLen.toNat + 1 := by bv_omega
    refine .inr ⟨hst, ?_⟩
    rw [encStepsLeft, encStepsLeft, encDigit_opR, encDigit_fmtSeg, encDigit_encLen, hstep]
    omega
  · exact .inl rfl
  · have hop : b.opR ≠ opEnc32 := fun he => by simp [Block.lastValue, he] at hnext
    have hstep : (b.fmtSeg + 1#3).toNat = b.fmtSeg.toNat + 1 := by bv_omega
    have hlt : b.fmtSeg.toNat < 3 := by bv_omega
    refine .inr ⟨hst, ?_⟩
    simp only [Block.encStepsLeft, loadEncoder_opR, appendText_opR, encDigit_opR,
      loadEncoder_encLen, if_neg hop, hstep, BitVec.toNat_ofNat]
    omega

/-- From `ENC_ITER` the block comes to `RSP` within the steps that are left, at any pace. -/
theorem runs_encIter {n : Nat} {s : State} (hinv : s.inv) (hst : s.blk.st = .encIter)
    (hn : s.host.noReset) (ho : HasOwner s.host.cmdQ s.host.tinQ) (hle : s.blk.encStepsLeft ≤ n) :
    ∃ k t, k ≤ n ∧ runs k s = .next t ∧ t.blk.st = .rsp := by
  induction n generalizing s with
  | zero =>
    obtain ⟨henc, -⟩ := hinv
    obtain ⟨hlen, -⟩ := henc hst
    unfold Block.encStepsLeft at hle
    omega
  | succ n ih =>
    obtain ⟨henc, -⟩ := id hinv
    obtain ⟨b, hb⟩ := Option.isSome_iff_exists.mp (henc hst).encIter_isSome
    have howned : Owned s :=
      (strayText_eq_false_iff_owned s).mp (Scene.Owned.not_stray (.inr ho))
    have hstep := step_of_encIter hn.rst howned hst hb
    obtain hrsp | ⟨hst', hlt⟩ := (henc hst).encIter_progress hst hb
    · exact ⟨1, _, Nat.le_add_left 1 n, runs_succ_of_next hstep 0, hrsp⟩
    · obtain ⟨k, t, hk, hrun, ht⟩ := ih (stepKeepsTheInvariant _ _ hinv hstep) hst'
        (hn.of_tail rfl) ho (by exact Nat.le_of_lt_succ (hlt.trans_le hle))
      exact ⟨k + 1, t, Nat.succ_le_succ hk, (runs_succ_of_next hstep k).trans hrun, ht⟩

/-- The commands that have a text are those that the block sends to a text state. -/
theorem hasOwner_of_someText {cmds : List CmdWord} {beats : List BeatWord}
    (h : beats = [] ∨ SomeText cmds) : HasOwner cmds beats := by
  refine h.imp_right fun ⟨w, hw, hnull, hop⟩ => ⟨w, hw, ?_⟩
  simp [takesText, hnull, hop]

/-- Settles O26: at most 7 steps are left of `ENC32` and at most 28 of `TOBG`. -/
theorem encoderNeedsNothingFromTheHost : Obligations.EncoderNeedsNothingFromTheHost :=
  fun s hinv hst hn ho => runs_encIter hinv hst hn (hasOwner_of_someText ho) s.blk.encStepsLeft_le

end Sys2Proof.Machine
end

section
/-! The step level against the operation level (70_reset_and_hazards.md R252). A command with an
answer leads to its delivery; one without an answer, a `FROMBG` text that is wide under `REFUSE`
(42_group_formatter.md R184), is refused at its EOT beat. -/

namespace Sys2Proof.Machine

open Sys2Proof.Claims

/-! ## Scenes that come to a refusal -/

/-- At any pace of the host without reset, the run ends in the refusal of a wide segment. -/
def RefusesWide (x : Scene) : Prop :=
  ∀ s : State, s.scene = x → s.host.noReset → ∃ k, runs k s = .refused .wideSegment

theorem Leads.refusesWide {x y : Scene} (h : Leads x y) (hy : RefusesWide y) : RefusesWide x := by
  intro s hs hn
  obtain ⟨k, t, hk, ht, hn⟩ := h s hs hn
  obtain ⟨j, hj⟩ := hy t ht hn
  exact ⟨k + j, (runs_add_of_next hk j).trans hj⟩

/-- A text beat that the block waits for comes on offer after finitely many edges (R255 H4). -/
theorem runs_until_tinPort {s : State} {w : BeatWord} {beats : List BeatWord}
    (hst : s.blk.st = .decText ∨ s.blk.st = .fromBgText) (hbeats : s.host.tinQ = w :: beats)
    (hn : s.host.noReset) :
    ∃ k t, runs k s = .next t ∧ t.scene = s.scene ∧ t.host.noReset ∧ t.host.tinPort = some w := by
  have hoffer : ∀ h : HostSide, h.tinQ = w :: beats → h.tinValid = true → h.tinPort = some w :=
    fun h hq hv => by rw [HostSide.tinPort, if_pos hv, hq]; rfl
  induction hm : s.host.moves generalizing s with
  | nil =>
    have hvalid : s.host.tinValid = true := by rw [HostSide.tinValid_of_done hm, hbeats]; rfl
    exact ⟨0, s, rfl, rfl, hn, hoffer s.host hbeats hvalid⟩
  | cons m ms ih =>
    cases hvalid : s.host.tinValid with
    | true => exact ⟨0, s, rfl, rfl, hn, hoffer s.host hbeats hvalid⟩
    | false =>
      have hwait : step s = .next s.pass := by
        rw [step_of_owned hn.rst (owned_of_text hst), clockEdge_of_text hst, textEdge,
          HostSide.tinPort, if_neg (by simp [hvalid])]
      obtain ⟨k, t, hk, ht, hn', hport⟩ :=
        ih (s := s.pass) hst hbeats (hn.of_tail rfl) (by simp [hm])
      exact ⟨k + 1, t, (runs_succ_of_next hwait k).trans hk, ht, hn', hport⟩

/-- A text beat without a meaning is refused at the first edge at which it is on offer. -/
theorem refusesWide_beat {x : Scene} {w : BeatWord} {beats : List BeatWord}
    (hst : x.blk.st = .decText ∨ x.blk.st = .fromBgText) (hbeats : x.beats = w :: beats)
    (hb : afterBeat x.policy w x.blk = none) : RefusesWide x := by
  rintro s rfl hn
  obtain ⟨k, t, hk, ht, hn', hport⟩ := runs_until_tinPort hst hbeats hn
  have hst' : t.blk.st = .decText ∨ t.blk.st = .fromBgText := by
    rw [show t.blk = s.blk from congrArg Scene.blk ht]; exact hst
  have hb' : afterBeat t.policy w t.blk = none := by
    rw [show t.policy = s.policy from congrArg Scene.policy ht,
      show t.blk = s.blk from congrArg Scene.blk ht]
    exact hb
  have hrefused : step t = .refused .wideSegment := by
    rw [step_of_tinPort hn'.rst hst' hport, decode, exec_decodeBeat_eq_withBlkOr (by exact hst')]
    exact congrArg (State.withBlkOr _ _) hb'
  exact ⟨k + 1, (runs_add_of_next hk 1).trans (runs_succ_of_refused hrefused 0)⟩

/-! ## `FROMBG` without an answer -/

/-- A `FROMBG` text without an answer is read up to its EOT beat, which is refused (R184). -/
theorem refusesWide_frombg {x : Scene} {t : Text} {e : Byte} {beats : List BeatWord}
    (hst : x.blk.st = .fromBgText) (hop : x.blk.opR = opFrombg) (hout : x.blk.outLen = 0#6)
    (hspace : x.blk.fmtSpace = false) (h : x.blk.InSegment [] [] [] 0#64)
    (hbeats : x.beats = textBeats e t ++ beats) (ha : fromBgAnswer x.policy t = none) :
    RefusesWide x := by
  have hrel := Block.endFromBgText_delivers x.policy t hop hout hspace h
  rw [ha] at hrel
  have hnone : (x.blk.readFromBg t).endFromBgText x.policy = none := by
    cases hb : (x.blk.readFromBg t).endFromBgText x.policy with
    | none => rfl
    | some b => rw [hb] at hrel; cases hrel
  rw [textBeats, List.append_assoc] at hbeats
  obtain ⟨hend, hchars⟩ := leads_chars (.inr hst) (hst ▸ Block.reads_fromBgChar x.policy) hbeats
  refine hchars.refusesWide (refusesWide_beat (.inr (hend.trans hst)) rfl ?_)
  rw [afterBeat_of_fromBgText (hend.trans hst), Laws.beatEot_beatWord, if_pos rfl]
  exact hnone

/-- Only `FROMBG` with a text can be without an answer. -/
theorem frombg_of_answerTo_none {p : RangePolicy} {w : CmdWord} {t : Text}
    (h : answerTo p w t = none) :
    cmdOp w = opFrombg ∧ cmdNull w = 0#1 ∧ fromBgAnswer p t = none := by
  unfold answerTo at h
  split_ifs at h with hnull henc hdec htobg hfrom
  exact ⟨hfrom, hnull, h⟩

theorem refusesWide_command {x : Scene} {w : CmdWord} {t : Text} {e : Byte} {cmds : List CmdWord}
    {beats : List BeatWord} (hst : x.blk.st = .idle) (hcmds : x.cmds = w :: cmds)
    (hbeats : x.beats = (if takesText w then textBeats e t else []) ++ beats)
    (ha : answerTo x.policy w t = none) : RefusesWide x := by
  obtain ⟨hop, hnull, ha⟩ := frombg_of_answerTo_none ha
  have htake : takesText w = true := by simp [takesText, hop, hnull]
  have howned : x.Owned := .inr (.inr ⟨w, by simp [hcmds], htake⟩)
  rw [if_pos htake] at hbeats
  have haccept := leads_accept hst hcmds howned
  rw [accepted_of_frombg hop hnull] at haccept
  exact haccept.refusesWide
    (refusesWide_frombg rfl rfl rfl rfl ⟨⟨rfl, rfl, rfl, fun _ h => nomatch h⟩, rfl, rfl, rfl, rfl⟩
      hbeats ha)

/-- Settles O58: a command with an answer leads back to `IDLE` with the answer delivered, and one
without is refused. -/
theorem stepLevelRefinesOperationLevel : Obligations.StepLevelRefinesOperationLevel := by
  intro s w t e cmds texts hst hn hcmds hbeats howned
  cases ha : answerTo s.policy w t with
  | none => exact refusesWide_command (x := s.scene) hst hcmds hbeats ha s rfl hn
  | some a =>
    obtain ⟨b, hb, hlead⟩ :=
      leads_command (x := s.scene) hst hcmds hbeats (hasOwner_of_someText howned) ha
    obtain ⟨k, r, hrun, hr, hn'⟩ := hlead s rfl hn
    refine ⟨k, r, hrun, ?_, congrArg Scene.policy hr, hn', congrArg Scene.cmds hr,
      congrArg Scene.beats hr, congrArg Scene.responses hr, congrArg Scene.texts hr⟩
    exact (congrArg (Block.st ∘ Scene.blk) hr).trans hb

end Sys2Proof.Machine
end

section
/-! Placing a word for the next step (assumption log 5): what `withFetchWord` leaves as it is, and
that the word is on the port of a ready channel at the coming edge. -/

namespace Sys2Proof.Machine

open Sys2Proof.Claims

/-! ## A host that is driving -/

@[simp] theorem HostSide.driving_cmdQ (h : HostSide) : h.driving.cmdQ = h.cmdQ := by
  unfold HostSide.driving; split <;> rfl

@[simp] theorem HostSide.driving_tinQ (h : HostSide) : h.driving.tinQ = h.tinQ := by
  unfold HostSide.driving; split <;> rfl

@[simp] theorem HostSide.driving_rst (h : HostSide) : h.driving.rst = false := by
  unfold HostSide.driving
  split
  · rfl
  · exact Bool.eq_false_of_not_eq_true ‹_›

/-- Whether the host resets is read from its moves alone. -/
theorem HostSide.rst_congr {h k : HostSide} (hm : h.moves = k.moves) : h.rst = k.rst := by
  rw [HostSide.rst, HostSide.rst, hm]

/-! ## Withholding a stray beat changes only what the host drives on the text channel -/

@[simp] theorem State.withholdStray_blk (s : State) : s.withholdStray.blk = s.blk := by
  unfold State.withholdStray; split <;> rfl

@[simp] theorem State.withholdStray_policy (s : State) : s.withholdStray.policy = s.policy := by
  unfold State.withholdStray; split <;> rfl

@[simp] theorem State.withholdStray_resets (s : State) : s.withholdStray.resets = s.resets := by
  unfold State.withholdStray; split <;> rfl

@[simp] theorem State.withholdStray_cmdQ (s : State) :
    s.withholdStray.host.cmdQ = s.host.cmdQ := by
  unfold State.withholdStray; split <;> rfl

@[simp] theorem State.withholdStray_cmdHeld (s : State) :
    s.withholdStray.host.cmdHeld = s.host.cmdHeld := by
  unfold State.withholdStray; split <;> rfl

@[simp] theorem State.withholdStray_tinQ (s : State) :
    s.withholdStray.host.tinQ = s.host.tinQ := by
  unfold State.withholdStray; split <;> rfl

theorem State.withholdStray_rst {s : State} (hr : s.host.rst = false) :
    s.withholdStray.host.rst = false := by
  obtain ⟨-, e⟩ | ⟨-, e⟩ := withholdStray_cases s <;> rw [e]
  · exact hr
  · exact s.host.withhold_rst

/-! ## A command on offer -/

@[simp] theorem State.offerCmd_st (w : CmdWord) (s : State) : (s.offerCmd w).blk.st = .idle := by
  simp [State.offerCmd]

@[simp] theorem State.offerCmd_policy (w : CmdWord) (s : State) :
    (s.offerCmd w).policy = s.policy := by
  simp [State.offerCmd]

@[simp] theorem State.offerCmd_resets (w : CmdWord) (s : State) :
    (s.offerCmd w).resets = s.resets := by
  simp [State.offerCmd]

@[simp] theorem State.offerCmd_cmdQ (w : CmdWord) (s : State) :
    (s.offerCmd w).host.cmdQ = w :: s.host.cmdQ := by
  simp [State.offerCmd]

@[simp] theorem State.offerCmd_cmdHeld (w : CmdWord) (s : State) :
    (s.offerCmd w).host.cmdHeld = true := by
  simp [State.offerCmd]

@[simp] theorem State.offerCmd_tinQ (w : CmdWord) (s : State) :
    (s.offerCmd w).host.tinQ = s.host.tinQ := by
  simp [State.offerCmd]

theorem State.offerCmd_rst (w : CmdWord) (s : State) : (s.offerCmd w).host.rst = false :=
  State.withholdStray_rst ((HostSide.rst_congr rfl).trans s.host.driving_rst)

theorem State.offerCmd_owned (w : CmdWord) (s : State) : Owned (s.offerCmd w) :=
  (strayText_eq_false_iff_owned _).mp (withholdStray_owned _)

theorem State.offerCmd_cmdPort (w : CmdWord) (s : State) :
    (s.offerCmd w).host.cmdPort = some w := by
  simp [HostSide.cmdPort, HostSide.cmdValid]

/-- The edge takes the command on offer (70_reset_and_hazards.md R245). -/
theorem step_offerCmd (w : CmdWord) (s : State) :
    step (s.offerCmd w) =
      exec (decode (.cmd w)) { s.offerCmd w with host := passedCmd (s.offerCmd w).host } :=
  step_of_cmdPort (s.offerCmd_rst w) (s.offerCmd_owned w) (s.offerCmd_st w) (s.offerCmd_cmdPort w)

/-! ## A text beat on offer -/

theorem State.offerBeat_st (w : BeatWord) (s : State) :
    (s.offerBeat w).blk.st = .decText ∨ (s.offerBeat w).blk.st = .fromBgText := by
  unfold State.offerBeat
  split
  · exact Block.tinReady_iff.mp ‹_›
  · exact .inr rfl

@[simp] theorem State.offerBeat_cmdQ (w : BeatWord) (s : State) :
    (s.offerBeat w).host.cmdQ = s.host.cmdQ := by
  simp [State.offerBeat]

@[simp] theorem State.offerBeat_tinQ (w : BeatWord) (s : State) :
    (s.offerBeat w).host.tinQ = w :: s.host.tinQ := by
  simp [State.offerBeat]

theorem State.offerBeat_rst (w : BeatWord) (s : State) : (s.offerBeat w).host.rst = false :=
  (HostSide.rst_congr rfl).trans s.host.driving_rst

theorem State.offerBeat_tinPort (w : BeatWord) (s : State) :
    (s.offerBeat w).host.tinPort = some w := by
  simp [State.offerBeat, HostSide.tinPort, HostSide.tinValid]

/-- The edge takes the text beat on offer (70_reset_and_hazards.md R248, R249). -/
theorem step_offerBeat (w : BeatWord) (s : State) :
    step (s.offerBeat w) =
      exec (decode (.beat w)) { s.offerBeat w with host := passedTin (s.offerBeat w).host } :=
  step_of_tinPort (s.offerBeat_rst w) (s.offerBeat_st w) (s.offerBeat_tinPort w)

/-! ## The instruction of a table word -/

/-- A table word that decodes stands for a channel word, which is the one placed. -/
theorem withFetchWord_of_decodeTableWord {nbits w : Nat} {i : Instr}
    (h : decodeTableWord nbits w = some i) (s : State) :
    ∃ cw, decode cw = i ∧ s.withFetchWord nbits w = s.offer cw := by
  unfold decodeTableWord at h
  unfold State.withFetchWord
  cases htable : tableWord nbits w with
  | ok cw => exact ⟨cw, by simpa [htable] using h, rfl⟩
  | error e => simp [htable] at h

theorem not_isBeat_decodeCmd (w : CmdWord) : ¬ IsBeat (decode (.cmd w)) := by
  rintro ⟨v, hv⟩
  cases (encode_decodeCmd w).symm.trans hv

theorem not_isCommand_decodeBeat (w : BeatWord) : ¬ IsCommand (decode (.beat w)) := by
  rintro ⟨v, hv⟩
  cases (encode_decodeBeat w).symm.trans hv

/-- Settles O28: the word placed is on the port of a ready channel, and the edge that takes it
leaves the queues that it was put in front of. -/
theorem fetchWordRunsNext : Obligations.FetchWordRunsNext := by
  intro s nbits w i hi
  obtain ⟨cw, rfl, hplace⟩ := withFetchWord_of_decodeTableWord hi s
  rw [hplace]
  cases cw with
  | cmd w =>
    exact ⟨_, step_offerCmd w s, rfl, s.offerCmd_policy w, s.offerCmd_resets w,
      congrArg List.tail (s.offerCmd_cmdQ w), s.offerCmd_tinQ w, fun _ => s.offerCmd_st w,
      fun hbeat => absurd hbeat (not_isBeat_decodeCmd w)⟩
  | beat w =>
    exact ⟨_, step_offerBeat w s, rfl, rfl, rfl, s.offerBeat_cmdQ w,
      congrArg List.tail (s.offerBeat_tinQ w),
      fun hcmd => absurd hcmd (not_isCommand_decodeBeat w), fun _ => s.offerBeat_st w⟩

end Sys2Proof.Machine
end
